-- ==== Sys2Proof/Word.lean ====
section
/-! DEFINITION. The words of the block: bytes and 32-bit command and response words (20_memory.md R41,
30_encoding.md R60). Bit 0 is the least significant bit (00_scope.md R7). -/

namespace Sys2Proof

/-- A byte of FRAME, PLANE or LUT; a pixel byte (20_memory.md R41, R42). -/
abbrev Byte := BitVec 8

/-- A command word or a response word (30_encoding.md R60, R70). -/
abbrev Word := BitVec 32

/-- `ceil8(n)`, the bytes that hold `n` bits (00_scope.md R8). -/
def ceil8 (n : Nat) : Nat := (n + 7) / 8

end Sys2Proof
end

