-- ==== Sys2Proof/Syntax.lean ====
section
/-! DEFINITION. The thirteen commands (30_encoding.md R64), the assembler's forms of them (R71) and its
pseudo-commands (R72). -/

namespace Sys2Proof

/-- A command of the block, one constructor per row of the opcode map (30_encoding.md R64). Each operand has the
width of its field (R62, R63), so every term is a command that some word encodes. -/
inductive Instr where
  /-- `NOP` (48_host_and_control.md R120). -/
  | nop
  /-- `BLEND_ALPHA SRC, DST` (40_alpha_blend_lut.md R84). -/
  | blendAlpha (src dst : BitVec 8)
  /-- `BLEND_ALPHABOTH SRC, DST` (40_alpha_blend_lut.md R85). -/
  | blendAlphaBoth (src dst : BitVec 8)
  /-- `SET_CMAP IDX, VAL` (45_subframe_encoder.md R101). -/
  | setCmap (idx val : BitVec 4)
  /-- `RESET_CMAP` (45_subframe_encoder.md R102). -/
  | resetCmap
  /-- `SET_WIDTH IMM16` (45_subframe_encoder.md R103). -/
  | setWidth (imm : BitVec 16)
  /-- `SET_HEIGHT IMM16` (45_subframe_encoder.md R104). -/
  | setHeight (imm : BitVec 16)
  /-- `READ_CFG SEL` (48_host_and_control.md R122). -/
  | readCfg (sel : BitVec 8)
  /-- `ENCODE USE_CMAP, NSUB` (45_subframe_encoder.md R106). -/
  | encode (useCmap : Bool) (nsub : BitVec 4)
  /-- `FRAME_WR ADDR, DATA` (48_host_and_control.md R123). -/
  | frameWr (addr : BitVec 20) (data : BitVec 8)
  /-- `FRAME_RD ADDR` (48_host_and_control.md R124). -/
  | frameRd (addr : BitVec 20)
  /-- `PLANE_WR ADDR, DATA` (48_host_and_control.md R125). -/
  | planeWr (addr : BitVec 20) (data : BitVec 8)
  /-- `PLANE_RD ADDR` (48_host_and_control.md R126). -/
  | planeRd (addr : BitVec 20)
deriving DecidableEq, Repr

/-- A line of the assembler: a command's text form, its operands still numbers (30_encoding.md R71). -/
inductive Asm where
  | nop
  | alpha (src dst : Nat)
  | alphaboth (src dst : Nat)
  | setcmap (idx val : Nat)
  | resetcmap
  | setw (imm : Nat)
  | seth (imm : Nat)
  | rdcfg (sel : Nat)
  /-- `encode NSUB`, or `encode NSUB, cmap` when `cmap` is set. -/
  | encode (nsub : Nat) (cmap : Bool)
  | fwr (addr data : Nat)
  | frd (addr : Nat)
  | pwr (addr data : Nat)
  | prd (addr : Nat)
deriving DecidableEq, Repr

/-- The assembler's pseudo-commands (30_encoding.md R72). -/
inductive Pseudo where
  | lutrd (idx16 : Nat)
  | setdims (w h : Nat)
  /-- `loadcmap V0, ..., V15`. -/
  | loadcmap (values : List Nat)
  /-- `fwrs ADDR, B0, ..., Bn`. -/
  | fwrs (addr : Nat) (bytes : List Nat)
  | encode4
  | encode4m
deriving DecidableEq, Repr

end Sys2Proof
end

