-- ==== Sys2Proof/WellFormed.lean ====
section
/-! DEFINITION. When a line of the assembler is well formed: every operand fits its field (30_encoding.md R71,
"An assembler refuses an operand that does not fit its field. It does not truncate it."). A term of `Instr` carries
the widths of its fields in its type (R62, R63), so there is nothing left to check of it: an operand out of its field
can be written only as a line of the assembler, and is refused here. -/

namespace Sys2Proof

/-- `n` fits an unsigned field of `width` bits (30_encoding.md R63). -/
def fitsField (width n : Nat) : Bool := decide (n < 2 ^ width)

/-- Every operand of the line fits the field that 30_encoding.md R62 gives it. -/
def Asm.wellFormed : Asm → Bool
  | .nop => true
  | .alpha src dst => fitsField 8 src && fitsField 8 dst
  | .alphaboth src dst => fitsField 8 src && fitsField 8 dst
  | .setcmap idx val => fitsField 4 idx && fitsField 4 val
  | .resetcmap => true
  | .setw imm => fitsField 16 imm
  | .seth imm => fitsField 16 imm
  | .rdcfg sel => fitsField 8 sel
  | .encode nsub _ => fitsField 4 nsub
  | .fwr addr data => fitsField 20 addr && fitsField 8 data
  | .frd addr => fitsField 20 addr
  | .pwr addr data => fitsField 20 addr && fitsField 8 data
  | .prd addr => fitsField 20 addr

/-- The shape of a pseudo-command of 30_encoding.md R72: `loadcmap` has sixteen values, `fwrs` at least one byte. Its
operands are checked where its expansion is assembled. -/
def Pseudo.wellFormed : Pseudo → Bool
  | .lutrd _ => true
  | .setdims _ _ => true
  | .loadcmap values => values.length == 16
  | .fwrs _ bytes => !bytes.isEmpty
  | .encode4 => true
  | .encode4m => true

end Sys2Proof
end

