-- ==== Sys2Proof/Decode.lean ====
section
/-! DEFINITION. Decoding a command word (30_encoding.md R60 to R68), the encoder of the same table, the opcode map as
data (R64), and the assembler (R71, R72). Decoding is total on every 32-bit word; a word that is no command is
rejected by name. -/

namespace Sys2Proof

/-! ### Fields (30_encoding.md R61, R63) -/

/-- `OPC = w[31:28]`. -/
def opcField (w : Word) : BitVec 4 := w.extractLsb' 28 4
/-- `SRC = w[15:8]`. -/
def srcField (w : Word) : BitVec 8 := w.extractLsb' 8 8
/-- `DST = w[7:0]`. -/
def dstField (w : Word) : BitVec 8 := w.extractLsb' 0 8
/-- `IDX = w[7:4]`. -/
def idxField (w : Word) : BitVec 4 := w.extractLsb' 4 4
/-- `VAL = w[3:0]`. -/
def valField (w : Word) : BitVec 4 := w.extractLsb' 0 4
/-- `IMM16 = w[15:0]`. -/
def imm16Field (w : Word) : BitVec 16 := w.extractLsb' 0 16
/-- `SEL = w[7:0]`. -/
def selField (w : Word) : BitVec 8 := w.extractLsb' 0 8
/-- `USE_CMAP = w[4]`. -/
def useCmapField (w : Word) : Bool := w.getLsbD 4
/-- `NSUB = w[3:0]`. -/
def nsubField (w : Word) : BitVec 4 := w.extractLsb' 0 4
/-- `ADDR = w[27:8]`. -/
def addrField (w : Word) : BitVec 20 := w.extractLsb' 8 20
/-- `DATA = w[7:0]`. -/
def dataField (w : Word) : BitVec 8 := w.extractLsb' 0 8

/-! ### Decoding (30_encoding.md R65, R66, R68) -/

/-- Why a word is no command. Both are reported to the host in the response, and the model goes on (safe): the
statuses of 60_exceptions.md R140. -/
inductive DecodeError where
  /-- `OPC` is 0xD, 0xE or 0xF (30_encoding.md R65). -/
  | illegalOpcode
  /-- A reserved bit of the command's format is 1 (30_encoding.md R66). -/
  | reservedBits
deriving DecidableEq, Repr

/-- The command that `OPC` selects, with its format's reserved bits (30_encoding.md R62, R68); none for 0xD to 0xF. -/
def commandOf (w : Word) : Option (Word × Instr) :=
  match (opcField w).toNat with
  | 0x0 => some (0x0FFFFFFF#32, .nop)
  | 0x1 => some (0x0FFF0000#32, .blendAlpha (srcField w) (dstField w))
  | 0x2 => some (0x0FFF0000#32, .blendAlphaBoth (srcField w) (dstField w))
  | 0x3 => some (0x0FFFFF00#32, .setCmap (idxField w) (valField w))
  | 0x4 => some (0x0FFFFFFF#32, .resetCmap)
  | 0x5 => some (0x0FFF0000#32, .setWidth (imm16Field w))
  | 0x6 => some (0x0FFF0000#32, .setHeight (imm16Field w))
  | 0x7 => some (0x0FFFFF00#32, .readCfg (selField w))
  | 0x8 => some (0x0FFFFFE0#32, .encode (useCmapField w) (nsubField w))
  | 0x9 => some (0x00000000#32, .frameWr (addrField w) (dataField w))
  | 0xA => some (0x000000FF#32, .frameRd (addrField w))
  | 0xB => some (0x00000000#32, .planeWr (addrField w) (dataField w))
  | 0xC => some (0x000000FF#32, .planeRd (addrField w))
  | _ => none

/-- Decoding, total on every word (30_encoding.md R68): the opcode is checked before the reserved bits. -/
def decode (w : Word) : Except DecodeError Instr :=
  match commandOf w with
  | none => .error .illegalOpcode
  | some (reserved, i) => if w &&& reserved = 0#32 then .ok i else .error .reservedBits

/-! ### Encoding (30_encoding.md R62, R64, R71) -/

/-- A field's value placed with its lowest bit at bit `lo` of a word (30_encoding.md R62, R63). -/
def atBit {n : Nat} (v : BitVec n) (lo : Nat) : Word := v.setWidth 32 <<< lo

/-- The word of a command: its opcode with each field at its place, reserved bits zero (30_encoding.md R62, R64; the
words of R71). -/
def encode : Instr → Word
  | .nop => 0x00000000#32
  | .blendAlpha src dst => 0x10000000#32 ||| atBit src 8 ||| atBit dst 0
  | .blendAlphaBoth src dst => 0x20000000#32 ||| atBit src 8 ||| atBit dst 0
  | .setCmap idx val => 0x30000000#32 ||| atBit idx 4 ||| atBit val 0
  | .resetCmap => 0x40000000#32
  | .setWidth imm => 0x50000000#32 ||| atBit imm 0
  | .setHeight imm => 0x60000000#32 ||| atBit imm 0
  | .readCfg sel => 0x70000000#32 ||| atBit sel 0
  | .encode useCmap nsub => 0x80000000#32 ||| atBit (BitVec.ofBool useCmap) 4 ||| atBit nsub 0
  | .frameWr addr data => 0x90000000#32 ||| atBit addr 8 ||| atBit data 0
  | .frameRd addr => 0xA0000000#32 ||| atBit addr 8
  | .planeWr addr data => 0xB0000000#32 ||| atBit addr 8 ||| atBit data 0
  | .planeRd addr => 0xC0000000#32 ||| atBit addr 8

/-! ### The opcode map as data (30_encoding.md R64) -/

/-- A row of the opcode map: a word is that command, legal, when `w &&& mask = pattern`. -/
structure OpcodeRow where
  pattern : Word
  mask : Word
deriving DecidableEq, Repr

/-- The row of each command in the opcode map (30_encoding.md R64). -/
def Instr.row : Instr → OpcodeRow
  | .nop => ⟨0x00000000#32, 0xFFFFFFFF#32⟩
  | .blendAlpha _ _ => ⟨0x10000000#32, 0xFFFF0000#32⟩
  | .blendAlphaBoth _ _ => ⟨0x20000000#32, 0xFFFF0000#32⟩
  | .setCmap _ _ => ⟨0x30000000#32, 0xFFFFFF00#32⟩
  | .resetCmap => ⟨0x40000000#32, 0xFFFFFFFF#32⟩
  | .setWidth _ => ⟨0x50000000#32, 0xFFFF0000#32⟩
  | .setHeight _ => ⟨0x60000000#32, 0xFFFF0000#32⟩
  | .readCfg _ => ⟨0x70000000#32, 0xFFFFFF00#32⟩
  | .encode _ _ => ⟨0x80000000#32, 0xFFFFFFE0#32⟩
  | .frameWr _ _ => ⟨0x90000000#32, 0xF0000000#32⟩
  | .frameRd _ => ⟨0xA0000000#32, 0xF00000FF#32⟩
  | .planeWr _ _ => ⟨0xB0000000#32, 0xF0000000#32⟩
  | .planeRd _ => ⟨0xC0000000#32, 0xF00000FF#32⟩

/-- The thirteen defined rows, in the map's order (30_encoding.md R64). -/
def opcodeMap : List OpcodeRow :=
  [⟨0x00000000#32, 0xFFFFFFFF#32⟩, ⟨0x10000000#32, 0xFFFF0000#32⟩, ⟨0x20000000#32, 0xFFFF0000#32⟩,
   ⟨0x30000000#32, 0xFFFFFF00#32⟩, ⟨0x40000000#32, 0xFFFFFFFF#32⟩, ⟨0x50000000#32, 0xFFFF0000#32⟩,
   ⟨0x60000000#32, 0xFFFF0000#32⟩, ⟨0x70000000#32, 0xFFFFFF00#32⟩, ⟨0x80000000#32, 0xFFFFFFE0#32⟩,
   ⟨0x90000000#32, 0xF0000000#32⟩, ⟨0xA0000000#32, 0xF00000FF#32⟩, ⟨0xB0000000#32, 0xF0000000#32⟩,
   ⟨0xC0000000#32, 0xF00000FF#32⟩]

/-- The host's probe of the decoder: the command read from the low `nbits` bits of `w`. Every command is one 32-bit
word (30_encoding.md R60); the bits above `nbits` are zero. -/
def decodeTableWord (nbits w : Nat) : Option Instr :=
  match decode (BitVec.ofNat 32 (w % 2 ^ nbits)) with
  | .ok i => some i
  | .error _ => none

/-! ### The assembler (30_encoding.md R71, R72) -/

/-- The command a well-formed line stands for (30_encoding.md R71); an operand that does not fit is refused, never
truncated. -/
def Asm.toInstr (a : Asm) : Option Instr :=
  if a.wellFormed then
    some (match a with
      | .nop => .nop
      | .alpha src dst => .blendAlpha (BitVec.ofNat 8 src) (BitVec.ofNat 8 dst)
      | .alphaboth src dst => .blendAlphaBoth (BitVec.ofNat 8 src) (BitVec.ofNat 8 dst)
      | .setcmap idx val => .setCmap (BitVec.ofNat 4 idx) (BitVec.ofNat 4 val)
      | .resetcmap => .resetCmap
      | .setw imm => .setWidth (BitVec.ofNat 16 imm)
      | .seth imm => .setHeight (BitVec.ofNat 16 imm)
      | .rdcfg sel => .readCfg (BitVec.ofNat 8 sel)
      | .encode nsub cmap => .encode cmap (BitVec.ofNat 4 nsub)
      | .fwr addr data => .frameWr (BitVec.ofNat 20 addr) (BitVec.ofNat 8 data)
      | .frd addr => .frameRd (BitVec.ofNat 20 addr)
      | .pwr addr data => .planeWr (BitVec.ofNat 20 addr) (BitVec.ofNat 8 data)
      | .prd addr => .planeRd (BitVec.ofNat 20 addr))
  else none

/-- The word a line assembles to (30_encoding.md R71). -/
def Asm.assemble (a : Asm) : Option Word := a.toInstr.map Sys2Proof.encode

/-- The `setcmap` lines of `loadcmap`, from entry `idx` on (30_encoding.md R72). -/
def loadcmapLines : Nat → List Nat → List Asm
  | _, [] => []
  | idx, v :: vs => .setcmap idx v :: loadcmapLines (idx + 1) vs

/-- The `fwr` lines of `fwrs`, from address `addr` on (30_encoding.md R72). -/
def fwrsLines : Nat → List Nat → List Asm
  | _, [] => []
  | addr, b :: bs => .fwr addr b :: fwrsLines (addr + 1) bs

/-- A pseudo-command's expansion (30_encoding.md R72). -/
def Pseudo.expand : Pseudo → List Asm
  | .lutrd idx16 => [.alphaboth (idx16 >>> 8) (idx16 &&& 0xFF)]
  | .setdims w h => [.setw w, .seth h]
  | .loadcmap values => loadcmapLines 0 values
  | .fwrs addr bytes => fwrsLines addr bytes
  | .encode4 => [.encode 4 false]
  | .encode4m => [.encode 4 true]

/-- The words of a list of lines; none where one of them is refused. -/
def assembleAll : List Asm → Option (List Word)
  | [] => some []
  | a :: rest =>
    match a.assemble, assembleAll rest with
    | some w, some ws => some (w :: ws)
    | _, _ => none

/-- The words of a pseudo-command (30_encoding.md R72). -/
def Pseudo.assemble (p : Pseudo) : Option (List Word) :=
  if p.wellFormed then assembleAll p.expand else none

end Sys2Proof
end

