-- ==== Sys2Proof/Config.lean ====
section
/-! DEFINITION. The implementation parameters (00_scope.md R6). They are no state (10_state.md R32). Operations that
depend on one take a `Config` as an argument; the machine runs them at `Config.block`. -/

namespace Sys2Proof

/-- `LUT_NUMERICS`: the arithmetic the table's dot formula is evaluated in (00_scope.md R6, 40_alpha_blend_lut.md
R80 to R83; 93_implementation_defined.md K1.1). -/
inductive LutNumerics where
  /-- IEEE binary64 (R81): the spec's setting. -/
  | binary64
  /-- Exact rational arithmetic (R82). -/
  | exact
  /-- IEEE binary32 (R83). -/
  | binary32
  /-- x87 extended, 64-bit significand (R83). -/
  | x87
  /-- Any other mix: the setting is the whole table (R83, K1.1). -/
  | table (entries : BitVec 16 → Byte)

/-- `HW_BITORDER`: a permutation π of the four bit positions (10_state.md R24, 92_eei_decisions.md D4). -/
abbrev BitOrder := Equiv.Perm (Fin 4)

/-- The parameters of 00_scope.md R6. -/
structure Config where
  lutNumerics : LutNumerics
  bitOrder : BitOrder
  frameMemBytes : Nat
  planeMemBytes : Nat

/-- The sizes R6 allows: 1 to 2^20 bytes, what a 20-bit ADDR reaches (30_encoding.md R63). -/
def Config.sizesLegal (c : Config) : Bool :=
  decide (1 ≤ c.frameMemBytes ∧ c.frameMemBytes ≤ 2 ^ 20 ∧ 1 ≤ c.planeMemBytes ∧ c.planeMemBytes ≤ 2 ^ 20)

/-- The wired bit order of the block. OPEN in the spec (10_state.md R24, K1.2: "Do not prove a claim from the default
π"), so it has no value here: a claim about the block holds for every π. Log entry 1. -/
opaque wiredBitOrder : BitOrder

/-- The block: the values R6 picks, and the open bit order. Log entries 1, 2, 3. -/
def Config.block : Config where
  lutNumerics := .binary64
  bitOrder := wiredBitOrder
  frameMemBytes := 4096
  planeMemBytes := 2048

@[simp] theorem Config.block_lutNumerics : Config.block.lutNumerics = .binary64 := rfl
@[simp] theorem Config.block_bitOrder : Config.block.bitOrder = wiredBitOrder := rfl
@[simp] theorem Config.block_frameMemBytes : Config.block.frameMemBytes = 4096 := rfl
@[simp] theorem Config.block_planeMemBytes : Config.block.planeMemBytes = 2048 := rfl

end Sys2Proof
end

