-- ==== Sys2Proof/Machine/State.lean ====
section
/-! DEFINITION. The state of the block (10_state.md R32), the two fields of the command port, and the reset state
(70_reset_and_hazards.md R160). Plain data throughout. -/

namespace Sys2Proof.Machine

/-- A byte memory: the bytes that have been written, by address (10_state.md R26, R27, R32: each cell "an 8-bit value
or "unwritten""). An address not listed is unwritten. -/
abbrev Memory := List Host.Cell

/-- The canonical form: addresses strictly rising. An unlisted address holds no value, so no entry can equal what an
unlisted address reads as, and equal memories are equal lists. -/
abbrev Memory.wf (m : Memory) : Prop := m.Pairwise (fun x y => x.1 < y.1)

/-- What the host puts on the command port, between commands. -/
inductive HostInput where
  /-- A 32-bit command word (00_scope.md R12, 30_encoding.md R60). -/
  | command (w : Word)
  /-- The block's one reset, "taken between commands, never during one" (70_reset_and_hazards.md R160). Log entry 6. -/
  | reset
deriving DecidableEq, Repr

/-- Everything the spec gives the block (10_state.md R32), and the command port. -/
structure State where
  /-- `CMAP[0..15]`, 4 bits each (10_state.md R22). -/
  cmap : Vector (BitVec 4) 16
  /-- `WIDTH` (10_state.md R23). -/
  width : BitVec 16
  /-- `HEIGHT` (10_state.md R23). -/
  height : BitVec 16
  /-- `FRAME` (10_state.md R26). -/
  frame : Memory
  /-- `PLANE` (10_state.md R27). -/
  plane : Memory
  /-- The model's own (log entry 5): what the host has sent and the block has not yet taken, oldest first. -/
  incoming : List HostInput
  /-- The model's own (log entry 5): the response words returned so far, oldest first (00_scope.md R13, 30_encoding.md
  R69). No command reads it (10_state.md R28). -/
  responses : List Word
deriving DecidableEq, Repr

/-- Why the model stops in a fault: reads of bytes that nothing has written since reset (48_host_and_control.md R127,
60_exceptions.md R144: "The hardware returns OK and some value there. The model's fault is the conservative reading").
Safe: the model stops where the hardware goes on with some value. Log entry 4. -/
inductive Fault where
  /-- Raised by `FRAME_RD` and `ENCODE`: the FRAME byte at `addr` was never written. Safe. -/
  | unwrittenFrame (addr : Nat)
  /-- Raised by `PLANE_RD`: the PLANE byte at `addr` was never written. Safe. -/
  | unwrittenPlane (addr : Nat)
deriving DecidableEq, Repr

/-- Why the model gives no meaning. No command of this model is refused. -/
inductive Refusal where
  /-- Raised by `exec` for a command that has no meaning yet; none is left. Safe: nothing can be proved of its effect. -/
  | notModelled (mnemonic : String)
deriving DecidableEq, Repr

/-- The three outcomes of a step of this machine. -/
abbrev Result := Host.Outcome State Fault Refusal

/-- The identity color map, `CMAP[i] = i` (10_state.md R22). -/
def identityCmap : Vector (BitVec 4) 16 := Vector.ofFn fun i => BitVec.ofFin i

/-- The state after reset (70_reset_and_hazards.md R160), with nothing sent and nothing answered yet (R161; log
entry 5). -/
def State.reset : State where
  cmap := identityCmap
  width := 128#16
  height := 32#16
  frame := []
  plane := []
  incoming := []
  responses := []

end Sys2Proof.Machine
end

