-- ==== Sys2Proof/Machine/Flags.lean ====
section
/-! DEFINITION. The outcome of a command: its status code (60_exceptions.md R140) and its response word
(30_encoding.md R70). The block has no flags (10_state.md R28); this is all a command reports. -/

namespace Sys2Proof.Machine

/-- The status codes (60_exceptions.md R140). The codes 0x7 to 0xF are reserved and never produced, so they have no
constructor (93_implementation_defined.md K1.7). -/
inductive Status where
  | ok
  | illegalOpcode
  | reservedBits
  | badSelector
  | badSubframeCount
  | frameExceedsMemory
  | addrRange
deriving DecidableEq, Repr

/-- A status's code in the STATUS field (60_exceptions.md R140). -/
def Status.code : Status → BitVec 4
  | .ok => 0x0#4
  | .illegalOpcode => 0x1#4
  | .reservedBits => 0x2#4
  | .badSelector => 0x3#4
  | .badSubframeCount => 0x4#4
  | .frameExceedsMemory => 0x5#4
  | .addrRange => 0x6#4

/-- The response word `(status << 28) | data`: STATUS in [31:28], zeros in [27:16], DATA in [15:0] (30_encoding.md
R70). -/
def responseWord (status : Status) (data : BitVec 16) : Word := atBit status.code 28 ||| atBit data 0

/-- The status that a word which is no command is answered with (30_encoding.md R65, R66). -/
def statusOfDecodeError : DecodeError → Status
  | .illegalOpcode => .illegalOpcode
  | .reservedBits => .reservedBits

end Sys2Proof.Machine
end

