-- ==== Sys2Proof/Machine/Ops.lean ====
section
/-! DEFINITION. The shared operations on state: one byte of memory (00_scope.md R9 `MemRead`, `MemWrite`), the
registers (`CMAP`, `WIDTH`, `HEIGHT`), ending a command (`respond`), and rejecting one (`raise Reject`, 60_exceptions.md
R141), which is this block's whole exception mechanism: it saves nothing and there is no return from it (R146). -/

namespace Sys2Proof.Machine

/-! ### Memory -/

/-- The byte at `a`; none where nothing has been written (48_host_and_control.md R127). -/
def Memory.read : Memory → Nat → Option Byte
  | [], _ => none
  | (b, v) :: rest, a => if b = a then some v else Memory.read rest a

/-- `MemWrite(_, a, 1, v)`, keeping the canonical form (00_scope.md R9). -/
def Memory.write : Memory → Nat → Byte → Memory
  | [], a, v => [(a, v)]
  | (b, u) :: rest, a, v =>
    if a < b then (a, v) :: (b, u) :: rest
    else if a = b then (a, v) :: rest
    else (b, u) :: Memory.write rest a v

/-- `MemRead(FRAME, a, 1)` (00_scope.md R9); a byte never written faults (48_host_and_control.md R127). -/
def memReadFrame (frame : Memory) (a : Nat) : Except Fault Byte :=
  match frame.read a with
  | some v => .ok v
  | none => .error (.unwrittenFrame a)

/-- `MemRead(PLANE, a, 1)` (00_scope.md R9); a byte never written faults (48_host_and_control.md R127). -/
def memReadPlane (plane : Memory) (a : Nat) : Except Fault Byte :=
  match plane.read a with
  | some v => .ok v
  | none => .error (.unwrittenPlane a)

/-! ### Registers -/

/-- `CMAP[i]` (00_scope.md R9, 10_state.md R22). -/
def State.readCmap (s : State) (i : BitVec 4) : BitVec 4 := s.cmap[i.toNat]'i.isLt

/-- `CMAP[i] <- v` (00_scope.md R9, 10_state.md R22). -/
def State.writeCmap (s : State) (i v : BitVec 4) : State := { s with cmap := s.cmap.set i.toNat v i.isLt }

/-- `CMAP[i] <- i` for every i (45_subframe_encoder.md R102). -/
def State.writeCmapIdentity (s : State) : State := { s with cmap := identityCmap }

/-- `WIDTH <- v` (00_scope.md R9, 10_state.md R23). -/
def State.writeWidth (s : State) (v : BitVec 16) : State := { s with width := v }

/-- `HEIGHT <- v` (00_scope.md R9, 10_state.md R23). -/
def State.writeHeight (s : State) (v : BitVec 16) : State := { s with height := v }

/-- FRAME replaced. -/
def State.withFrame (s : State) (m : Memory) : State := { s with frame := m }

/-- PLANE replaced. -/
def State.withPlane (s : State) (m : Memory) : State := { s with plane := m }

/-! ### The command port -/

/-- The input at the head of the port has been taken; `rest` is what follows it. -/
def State.withIncoming (s : State) (rest : List HostInput) : State := { s with incoming := rest }

/-- `respond(status, data)`: the one response word of a command goes to the host (30_encoding.md R69, R70). -/
def State.respond (s : State) (status : Status) (data : BitVec 16) : State :=
  { s with responses := s.responses ++ [responseWord status data] }

/-- The place of the next command in the host's sequence, "the role of a program counter": it advances by one per
command, whatever the command's status (10_state.md R21), as the responses do (30_encoding.md R69). Log entry 7. -/
def State.place (s : State) : Nat := s.responses.length

/-- A command completes: `respond(OK, data)`. -/
def finish (s : State) (data : BitVec 16) : Result := .next (s.respond .ok data)

/-- `raise Reject(code)`: the command ends at once with `respond(code, 0)` and no other state changes; the next
command starts normally (60_exceptions.md R141). -/
def reject (s : State) (code : Status) : Result := .next (s.respond code 0#16)

/-- Reset, taken between two commands: every register and memory byte as 70_reset_and_hazards.md R160 says. What the
host still has to send and what it has been answered are the host's, and stay (log entry 6). -/
def State.applyReset (s : State) : State :=
  { State.reset with incoming := s.incoming, responses := s.responses }

end Sys2Proof.Machine
end

