-- ==== Sys2Proof/Machine/Operands.lean ====
section
/-! DEFINITION. How commands read their operands: the nibbles of a pixel byte (20_memory.md R42), the hardware
bit-order table (10_state.md R24), the configuration selectors (48_host_and_control.md R121), and the address check of
the host access commands (20_memory.md R48). -/

namespace Sys2Proof.Machine

/-- A pixel byte's dot, `p[3:0]` (20_memory.md R42). -/
def dot (p : Byte) : BitVec 4 := p.extractLsb' 0 4

/-- A pixel byte's alpha, `p[7:4]` (20_memory.md R42). -/
def alpha (p : Byte) : BitVec 4 := p.extractLsb' 4 4

/-- `c[k] << π(k)`: bit `k` of a code, moved to bit `π(k)` (10_state.md R24). -/
def movedBit (order : BitOrder) (c : BitVec 4) (k : Fin 4) : BitVec 4 :=
  (BitVec.ofBool (c.getLsbD k.val)).setWidth 4 <<< (order k).val

/-- `HWMAP[c]`, the OR over k of `c[k] << π(k)` (10_state.md R24). -/
def hwmap (order : BitOrder) (c : BitVec 4) : BitVec 4 :=
  movedBit order c 0 ||| movedBit order c 1 ||| movedBit order c 2 ||| movedBit order c 3

/-- The register a selector names, zero-extended to DATA (48_host_and_control.md R121, R122); none for an undefined
selector. -/
def cfgValue (c : Config) (sel : BitVec 8) (s : State) : Option (BitVec 16) :=
  if sel.toNat ≤ 0x0F then some ((s.readCmap (sel.setWidth 4)).setWidth 16)
  else if sel.toNat = 0x10 then some s.width
  else if sel.toNat = 0x11 then some s.height
  else if 0x20 ≤ sel.toNat ∧ sel.toNat ≤ 0x2F then some ((hwmap c.bitOrder (BitVec.ofNat 4 (sel.toNat - 0x20))).setWidth 16)
  else none

/-- `N = WIDTH * HEIGHT`, the pixels of the frame, exact (45_subframe_encoder.md R105). -/
def State.pixelCount (s : State) : Nat := s.width.toNat * s.height.toNat

/-- `P = ceil8(N)`, the bytes of a plane (45_subframe_encoder.md R105). -/
def State.planeSize (s : State) : Nat := ceil8 s.pixelCount

/-- The FRAME address of pixel (col, row): `row * WIDTH + col` (20_memory.md R43). -/
def frameAddr (width row col : Nat) : Nat := row * width + col

/-- The PLANE address of pixel (col, row) in plane `k`: `k * P + (row * WIDTH + col) div 8` (20_memory.md R44). -/
def planeAddr (width planeBytes k row col : Nat) : Nat := k * planeBytes + frameAddr width row col / 8

end Sys2Proof.Machine
end

