-- ==== Sys2Proof/Machine/Lut.lean ====
section
/-! DEFINITION. The contents of the alpha blend table (40_alpha_blend_lut.md R80 to R83): the source's dot formula,
each of its four operations rounded once to a significand of a given width, or exact. The table is a constant, valid
from reset (10_state.md R25, 70_reset_and_hazards.md R162). -/

namespace Sys2Proof.Machine

/-- A rounded value `sig / 2 ^ scale`. -/
structure Rounded where
  sig : Nat
  scale : Nat
deriving DecidableEq, Repr

/-- `a / b` rounded to the nearest natural, ties to even, for `b > 0` (00_scope.md R8). -/
def roundHalfEven (a b : Nat) : Nat :=
  if 2 * (a % b) < b then a / b
  else if b < 2 * (a % b) then a / b + 1
  else a / b + a / b % 2

/-- The power of two that brings `num / den` to a significand of `p` bits: `2 ^ (p - 1) ≤ num * 2 ^ scale / den < 2 ^ p`. -/
def roundScale (p num den : Nat) : Nat :=
  let up := p + den.log2 - num.log2
  if num * 2 ^ up < den * 2 ^ p then up else up - 1

/-- `num / den` rounded to the nearest value with a significand of `p` bits, ties to even (00_scope.md R8: `fl64` for
`p = 53`, `fl32` for `p = 24`; 40_alpha_blend_lut.md R83: x87 for `p = 64`). For `den > 0` and a quotient below
`2 ^ (p - 1)`; every quotient of R81 is at most 15, and a nonzero one at least 1/3375, so no format's exponent range
is met (log entry 10). -/
def roundTo (p num den : Nat) : Rounded :=
  if num = 0 then ⟨0, 0⟩
  else ⟨roundHalfEven (num * 2 ^ roundScale p num den) den, roundScale p num den⟩

/-- `sD * sA` (40_alpha_blend_lut.md R81). -/
def srcTerm (s : Byte) : Nat := (dot s).toNat * (alpha s).toNat

/-- `dD * dA * (15 - sA)` (40_alpha_blend_lut.md R81). -/
def dstTerm (s d : Byte) : Nat := (dot d).toNat * (alpha d).toNat * (15 - (alpha s).toNat)

/-- The four steps of 40_alpha_blend_lut.md R81 with each result rounded to `p` significand bits: `i = x / 225`,
`j = y / 3375`, `t = i + j` and `m = t * 15`; then `floor(m)`. -/
def dotOfTerms (p x y : Nat) : Nat :=
  let i := roundTo p x 225
  let j := roundTo p y 3375
  let t := roundTo p (i.sig * 2 ^ j.scale + j.sig * 2 ^ i.scale) (2 ^ (i.scale + j.scale))
  let m := roundTo p (t.sig * 15) (2 ^ t.scale)
  m.sig / 2 ^ m.scale

/-- The dot of (s, d) with every step rounded to `p` significand bits (40_alpha_blend_lut.md R81, R83). -/
def dotRounded (p : Nat) (s d : Byte) : Nat := dotOfTerms p (srcTerm s) (dstTerm s d)

/-- `DOT_BINARY64(s, d)` (40_alpha_blend_lut.md R81). -/
def dotBinary64 (s d : Byte) : Nat := dotRounded 53 s d

/-- `DOT_BINARY32(s, d)` (40_alpha_blend_lut.md R83). -/
def dotBinary32 (s d : Byte) : Nat := dotRounded 24 s d

/-- `DOT_X87(s, d)` (40_alpha_blend_lut.md R83). -/
def dotX87 (s d : Byte) : Nat := dotRounded 64 s d

/-- `DOT_EXACT(s, d)` (40_alpha_blend_lut.md R82). -/
def dotExact (s d : Byte) : Nat :=
  (15 * (dot s).toNat * (alpha s).toNat + (dot d).toNat * (alpha d).toNat * (15 - (alpha s).toNat)) / 225

/-- The entry of (s, d): `(alpha << 4) | dot`, alpha the larger of the two (40_alpha_blend_lut.md R80). -/
def lutByte (dotOf : Byte → Byte → Nat) (s d : Byte) : Byte :=
  BitVec.ofNat 8 ((max (alpha s).toNat (alpha d).toNat <<< 4) ||| dotOf s d)

/-- The index `(src << 8) | dst` (10_state.md R25, 30_encoding.md R63). -/
def lutIndex (src dst : Byte) : BitVec 16 := (src.setWidth 16 <<< 8) ||| dst.setWidth 16

/-- `LUT[idx]` under a setting of LUT_NUMERICS (40_alpha_blend_lut.md R80, R83). -/
def lut (numerics : LutNumerics) (idx : BitVec 16) : Byte :=
  let s : Byte := idx.extractLsb' 8 8
  let d : Byte := idx.extractLsb' 0 8
  match numerics with
  | .binary64 => lutByte dotBinary64 s d
  | .exact => lutByte dotExact s d
  | .binary32 => lutByte dotBinary32 s d
  | .x87 => lutByte dotX87 s d
  | .table entries => entries idx

end Sys2Proof.Machine
end

