-- ==== Sys2Proof/Machine/Blend.lean ====
section
/-! DEFINITION. The two blends (40_alpha_blend_lut.md R84, R85). They differ as R89 asks: `Alpha` forces the
destination's alpha to 0xF for the lookup only, `AlphaBoth` uses the raw destination byte. Neither writes state. -/

namespace Sys2Proof.Machine

/-- The result byte of `BLEND_ALPHA` (40_alpha_blend_lut.md R84). -/
def blendAlphaByte (c : Config) (src dst : BitVec 8) : Byte :=
  (dst &&& 0xF0#8) ||| (lut c.lutNumerics (lutIndex src (dst ||| 0xF0#8)) &&& 0x0F#8)

/-- `BLEND_ALPHA` (40_alpha_blend_lut.md R84). -/
def blendAlpha (c : Config) (src dst : BitVec 8) (s : State) : Result :=
  finish s ((blendAlphaByte c src dst).setWidth 16)

/-- `BLEND_ALPHABOTH` (40_alpha_blend_lut.md R85). -/
def blendAlphaBoth (c : Config) (src dst : BitVec 8) (s : State) : Result :=
  finish s ((lut c.lutNumerics (lutIndex src dst)).setWidth 16)

/-- `BLEND_ALPHA` on the block (R84). -/
def execBlendAlpha (src dst : BitVec 8) (s : State) : Result := blendAlpha Config.block src dst s

/-- `BLEND_ALPHABOTH` on the block (R85). -/
def execBlendAlphaBoth (src dst : BitVec 8) (s : State) : Result := blendAlphaBoth Config.block src dst s

end Sys2Proof.Machine
end

