-- ==== Sys2Proof/Machine/Encoder.lean ====
section
/-! DEFINITION. The subframe bit-plane encoder: its configuration commands (45_subframe_encoder.md R101 to R104) and
`ENCODE` (R100, R105, R106). -/

namespace Sys2Proof.Machine

/-- `SET_CMAP` (45_subframe_encoder.md R101): any 4-bit value is accepted (10_state.md R22). -/
def execSetCmap (idx val : BitVec 4) (s : State) : Result := finish (s.writeCmap idx val) 0#16

/-- `RESET_CMAP` (45_subframe_encoder.md R102). -/
def execResetCmap (s : State) : Result := finish s.writeCmapIdentity 0#16

/-- `SET_WIDTH` (45_subframe_encoder.md R103): no value is rejected here. -/
def execSetWidth (imm : BitVec 16) (s : State) : Result := finish (s.writeWidth imm) 0#16

/-- `SET_HEIGHT` (45_subframe_encoder.md R104): no value is rejected here. -/
def execSetHeight (imm : BitVec 16) (s : State) : Result := finish (s.writeHeight imm) 0#16

/-- The final code of a dot (45_subframe_encoder.md R100): through CMAP when `useCmap`, else as it stands; then HWMAP. -/
def finalCode (c : Config) (useCmap : Bool) (s : State) (d : BitVec 4) : BitVec 4 :=
  hwmap c.bitOrder (if useCmap then s.readCmap d else d)

/-- `for a in 0 .. count - 1: MemWrite(PLANE, a, 1, 0x00)` (45_subframe_encoder.md R106). -/
def zeroPlanes (plane : Memory) (count : Nat) : Memory :=
  (List.range count).foldl (fun m a => m.write a 0#8) plane

/-- Plane `k`'s part of a pixel: where bit `k` of the code is 1, bit `col mod 8` of its byte is set (45_subframe_encoder.md
R106). -/
def lightPlane (width planeBytes row col : Nat) (code : BitVec 4) (k : Nat) (plane : Memory) : Except Fault Memory :=
  if code.getLsbD k then
    match memReadPlane plane (planeAddr width planeBytes k row col) with
    | .error f => .error f
    | .ok b => .ok (plane.write (planeAddr width planeBytes k row col) (b ||| (1#8 <<< (col % 8))))
  else .ok plane

/-- `for k in ks`: the planes in order (45_subframe_encoder.md R106). -/
def lightPlanes (width planeBytes row col : Nat) (code : BitVec 4) : List Nat → Memory → Except Fault Memory
  | [], plane => .ok plane
  | k :: ks, plane =>
    match lightPlane width planeBytes row col code k plane with
    | .error f => .error f
    | .ok plane' => lightPlanes width planeBytes row col code ks plane'

/-- One pixel: read its byte, skip dot 0 before any map, light its planes (45_subframe_encoder.md R106). -/
def encodePixel (c : Config) (useCmap : Bool) (s : State) (row col : Nat) (plane : Memory) : Except Fault Memory :=
  match memReadFrame s.frame (frameAddr s.width.toNat row col) with
  | .error f => .error f
  | .ok p =>
    if dot p = 0#4 then .ok plane
    else lightPlanes s.width.toNat s.planeSize row col (finalCode c useCmap s (dot p)) [0, 1, 2, 3] plane

/-- The pixels in the order they are visited: rows from the top, each from the left (45_subframe_encoder.md R106). -/
def pixelOrder (width height : Nat) : List (Nat × Nat) :=
  (List.range height).flatMap fun row => (List.range width).map fun col => (row, col)

/-- The pixels of a list, one after the other (45_subframe_encoder.md R106). -/
def encodePixels (c : Config) (useCmap : Bool) (s : State) : List (Nat × Nat) → Memory → Except Fault Memory
  | [], plane => .ok plane
  | (row, col) :: rest, plane =>
    match encodePixel c useCmap s row col plane with
    | .error f => .error f
    | .ok plane' => encodePixels c useCmap s rest plane'

/-- PLANE after an accepted `ENCODE`: the planes zeroed, then every pixel (45_subframe_encoder.md R106). -/
def encodedPlane (c : Config) (useCmap : Bool) (s : State) : Except Fault Memory :=
  encodePixels c useCmap s (pixelOrder s.width.toNat s.height.toNat) (zeroPlanes s.plane (4 * s.planeSize))

/-- The frame and its four planes fit the memories (45_subframe_encoder.md R106, 20_memory.md R48). -/
abbrev fitsMemories (c : Config) (s : State) : Prop :=
  s.pixelCount ≤ c.frameMemBytes ∧ 4 * s.planeSize ≤ c.planeMemBytes

/-- `ENCODE` (45_subframe_encoder.md R106), its checks in the order of 60_exceptions.md R142. -/
def encodeFrame (c : Config) (useCmap : Bool) (nsub : BitVec 4) (s : State) : Result :=
  if nsub ≠ 4#4 then reject s .badSubframeCount
  else if ¬ fitsMemories c s then reject s .frameExceedsMemory
  else
    match encodedPlane c useCmap s with
    | .error f => .fault f
    | .ok plane => finish (s.withPlane plane) 0#16

/-- `ENCODE` on the block (R106). -/
def execEncode (useCmap : Bool) (nsub : BitVec 4) (s : State) : Result := encodeFrame Config.block useCmap nsub s

end Sys2Proof.Machine
end

