-- ==== Sys2Proof/Machine/HostAccess.lean ====
section
/-! DEFINITION. The host access and control commands (48_host_and_control.md R120 to R126). -/

namespace Sys2Proof.Machine

/-- `NOP` (48_host_and_control.md R120). -/
def execNop (s : State) : Result := finish s 0#16

/-- `READ_CFG` (48_host_and_control.md R121, R122). -/
def readCfg (c : Config) (sel : BitVec 8) (s : State) : Result :=
  match cfgValue c sel s with
  | some v => finish s v
  | none => reject s .badSelector

/-- `FRAME_WR` (48_host_and_control.md R123). -/
def frameWr (c : Config) (addr : BitVec 20) (data : BitVec 8) (s : State) : Result :=
  if c.frameMemBytes ≤ addr.toNat then reject s .addrRange
  else finish (s.withFrame (s.frame.write addr.toNat data)) 0#16

/-- `FRAME_RD` (48_host_and_control.md R124); a byte never written faults (R127). -/
def frameRd (c : Config) (addr : BitVec 20) (s : State) : Result :=
  if c.frameMemBytes ≤ addr.toNat then reject s .addrRange
  else
    match memReadFrame s.frame addr.toNat with
    | .error f => .fault f
    | .ok v => finish s (v.setWidth 16)

/-- `PLANE_WR` (48_host_and_control.md R125). -/
def planeWr (c : Config) (addr : BitVec 20) (data : BitVec 8) (s : State) : Result :=
  if c.planeMemBytes ≤ addr.toNat then reject s .addrRange
  else finish (s.withPlane (s.plane.write addr.toNat data)) 0#16

/-- `PLANE_RD` (48_host_and_control.md R126); a byte never written faults (R127). -/
def planeRd (c : Config) (addr : BitVec 20) (s : State) : Result :=
  if c.planeMemBytes ≤ addr.toNat then reject s .addrRange
  else
    match memReadPlane s.plane addr.toNat with
    | .error f => .fault f
    | .ok v => finish s (v.setWidth 16)

/-- `READ_CFG` on the block (R122). -/
def execReadCfg (sel : BitVec 8) (s : State) : Result := readCfg Config.block sel s

/-- `FRAME_WR` on the block (R123). -/
def execFrameWr (addr : BitVec 20) (data : BitVec 8) (s : State) : Result := frameWr Config.block addr data s

/-- `FRAME_RD` on the block (R124). -/
def execFrameRd (addr : BitVec 20) (s : State) : Result := frameRd Config.block addr s

/-- `PLANE_WR` on the block (R125). -/
def execPlaneWr (addr : BitVec 20) (data : BitVec 8) (s : State) : Result := planeWr Config.block addr data s

/-- `PLANE_RD` on the block (R126). -/
def execPlaneRd (addr : BitVec 20) (s : State) : Result := planeRd Config.block addr s

end Sys2Proof.Machine
end

