-- ==== Sys2Proof/Machine/Dispatch.lean ====
section
/-! DEFINITION. One arm per command (30_encoding.md R64). -/

namespace Sys2Proof.Machine

def exec (i : Instr) (s : State) : Host.Outcome State Fault Refusal :=
  match i with
  | .nop => Sys2Proof.Machine.execNop s
  | .blendAlpha src dst => Sys2Proof.Machine.execBlendAlpha src dst s
  | .blendAlphaBoth src dst => Sys2Proof.Machine.execBlendAlphaBoth src dst s
  | .setCmap idx val => Sys2Proof.Machine.execSetCmap idx val s
  | .resetCmap => Sys2Proof.Machine.execResetCmap s
  | .setWidth imm => Sys2Proof.Machine.execSetWidth imm s
  | .setHeight imm => Sys2Proof.Machine.execSetHeight imm s
  | .readCfg sel => Sys2Proof.Machine.execReadCfg sel s
  | .encode useCmap nsub => Sys2Proof.Machine.execEncode useCmap nsub s
  | .frameWr addr data => Sys2Proof.Machine.execFrameWr addr data s
  | .frameRd addr => Sys2Proof.Machine.execFrameRd addr s
  | .planeWr addr data => Sys2Proof.Machine.execPlaneWr addr data s
  | .planeRd addr => Sys2Proof.Machine.execPlaneRd addr s

end Sys2Proof.Machine
end

