-- ==== Sys2Proof/Machine/Port.lean ====
section
/-! DEFINITION. What the block does with one input at the command port: run the command a word decodes to, or answer
the word with a rejection (30_encoding.md R68, 60_exceptions.md R141), or take the reset (70_reset_and_hazards.md R160). -/

namespace Sys2Proof.Machine

/-- A command word (30_encoding.md R68): its command runs, or the word is rejected with no state change. -/
def runWord (w : Word) (s : State) : Result :=
  match decode w with
  | .ok i => exec i s
  | .error e => reject s (statusOfDecodeError e)

/-- One step: the oldest input not yet taken is taken (00_scope.md R12, 20_memory.md R50). With nothing sent the block
is idle and keeps all state (60_exceptions.md R153, 70_reset_and_hazards.md R161; log entry 8). -/
def portStep (s : State) : Result :=
  match s.incoming with
  | [] => .next s
  | .command w :: rest => runWord w (s.withIncoming rest)
  | .reset :: rest => .next ((s.withIncoming rest).applyReset)

/-- The low `nbits` bits of `w`, a command word, put at the head of the command port: the host sends it next. -/
def State.send (s : State) (nbits w : Nat) : State :=
  s.withIncoming (.command (BitVec.ofNat 32 (w % 2 ^ nbits)) :: s.incoming)

end Sys2Proof.Machine
end

