-- ==== Sys2Proof/Machine/Step.lean ====
section
/-! DEFINITION. One step of the machine: the block takes the next input of the command port (10_state.md R21: it
fetches nothing from memory). -/

namespace Sys2Proof.Machine

/-- One step of the block (00_scope.md R10, R12). -/
def step (s : State) : Host.Outcome State Fault Refusal := portStep s

/-- `s` with a command word sent by the host, so that the next step runs it (log entry 5). -/
def State.withFetchWord (s : State) (nbits w : Nat) : State := s.send nbits w

end Sys2Proof.Machine
end

