-- ==== Sys2Proof/Machine/AsmText.lean ====
section
/-! DEFINITION. The assembler's text (30_encoding.md R71, R72): a mnemonic, then operands separated by commas, numbers
decimal or `0x` hex. No command depends on it (92_eei_decisions.md D23). Spaces may stand around an operand, hex digits
may be of either case, and there are no comments (log entry 11). -/

namespace Sys2Proof.Machine

/-- A piece of text. -/
abbrev Text := List Char

/-- Text without the spaces at its ends. -/
def trimText (t : Text) : Text := ((t.dropWhile (· == ' ')).reverse.dropWhile (· == ' ')).reverse

/-- The pieces between commas. -/
def splitCommas : Text → List Text
  | [] => [[]]
  | c :: cs =>
    if c == ',' then [] :: splitCommas cs
    else
      match splitCommas cs with
      | [] => [[c]]
      | t :: ts => (c :: t) :: ts

/-- A digit's value in a base of at most 16. -/
def digitValue (base : Nat) (c : Char) : Option Nat :=
  let n := c.toNat
  let v :=
    if 48 ≤ n ∧ n ≤ 57 then n - 48
    else if 65 ≤ n ∧ n ≤ 70 then n - 55
    else if 97 ≤ n ∧ n ≤ 102 then n - 87
    else 16
  if v < base then some v else none

/-- The number a row of digits stands for, read on from `acc`. -/
def digitsValue (base : Nat) : Text → Nat → Option Nat
  | [], acc => some acc
  | c :: cs, acc =>
    match digitValue base c with
    | some v => digitsValue base cs (acc * base + v)
    | none => none

/-- A number, "decimal or `0x` hex" (30_encoding.md R71). -/
def readNumber : Text → Option Nat
  | [] => none
  | ['0', 'x'] => none
  | '0' :: 'x' :: cs => digitsValue 16 cs 0
  | cs => digitsValue 10 cs 0

/-- The numbers of a list of operands; none where one is no number. -/
def readNumbers : List Text → Option (List Nat)
  | [] => some []
  | t :: ts =>
    match readNumber t, readNumbers ts with
    | some n, some ns => some (n :: ns)
    | _, _ => none

/-- A line's mnemonic and its operands. -/
def splitLine (t : Text) : Text × List Text :=
  let t := trimText t
  let operands := trimText (t.dropWhile (· != ' '))
  (t.takeWhile (· != ' '), if operands.isEmpty then [] else (splitCommas operands).map trimText)

/-- A line of the assembler (30_encoding.md R71): its mnemonic with as many numbers as the form has. -/
def readAsm (mnemonic : String) (operands : List Nat) : Option Asm :=
  match operands with
  | [] => if mnemonic = "nop" then some .nop else if mnemonic = "resetcmap" then some .resetcmap else none
  | [a] =>
    if mnemonic = "setw" then some (.setw a)
    else if mnemonic = "seth" then some (.seth a)
    else if mnemonic = "rdcfg" then some (.rdcfg a)
    else if mnemonic = "encode" then some (.encode a false)
    else if mnemonic = "frd" then some (.frd a)
    else if mnemonic = "prd" then some (.prd a)
    else none
  | [a, b] =>
    if mnemonic = "alpha" then some (.alpha a b)
    else if mnemonic = "alphaboth" then some (.alphaboth a b)
    else if mnemonic = "setcmap" then some (.setcmap a b)
    else if mnemonic = "fwr" then some (.fwr a b)
    else if mnemonic = "pwr" then some (.pwr a b)
    else none
  | _ => none

/-- A pseudo-command (30_encoding.md R72): its mnemonic with as many numbers as the form has. -/
def readPseudo (mnemonic : String) (operands : List Nat) : Option Pseudo :=
  if mnemonic = "loadcmap" then (if operands.length = 16 then some (.loadcmap operands) else none)
  else
    match operands with
    | [] =>
      if mnemonic = "encode4" then some .encode4 else if mnemonic = "encode4m" then some .encode4m else none
    | [a] => if mnemonic = "lutrd" then some (.lutrd a) else none
    | a :: b :: rest =>
      if mnemonic = "fwrs" then some (.fwrs a (b :: rest))
      else if mnemonic = "setdims" ∧ rest = [] then some (.setdims a b)
      else none

/-- The words a line of text assembles to (30_encoding.md R71, R72); none where the assembler refuses it. The form
`encode NSUB, cmap` has a word for its second operand. -/
def assembleText (line : Text) : Option (List Word) :=
  let parts := splitLine line
  let mnemonic := String.ofList parts.1
  match parts.2 with
  | [n, ['c', 'm', 'a', 'p']] =>
    match readNumber n with
    | some k => if mnemonic = "encode" then assembleAll [.encode k true] else none
    | none => none
  | operands =>
    match readNumbers operands with
    | none => none
    | some ns =>
      match readAsm mnemonic ns, readPseudo mnemonic ns with
      | some a, _ => assembleAll [a]
      | none, some p => p.assemble
      | none, none => none

end Sys2Proof.Machine
end

