-- ==== Sys2Proof/Machine/LutExceptions.lean ====
section
/-! DEFINITION. The exception sets of 40_alpha_blend_lut.md, appendix A: the pairs (s, d) at which a setting's dot is
one below the exact one (R81, R83). No command reads them (the table is computed by its own formula); claims about the
table's closed form do. A row is a source byte and the destination bytes listed for it. -/

namespace Sys2Proof.Machine

/-- A set of pairs (s, d): each row a source byte and its destination bytes. -/
abbrev PairSet := List (Nat × List Nat)

/-- The pair (s, d) is listed. -/
def PairSet.has (set : PairSet) (s d : Byte) : Bool :=
  set.any fun row => row.1 == s.toNat && row.2.any (fun b => b == d.toNat)

/-- How many pairs are listed. -/
def PairSet.card (set : PairSet) : Nat := (set.map fun row => row.2.length).sum

/-- `E64`, 31 pairs (appendix A.1). -/
def e64 : PairSet :=
  [(0x17, [0x7F, 0xF7]),
   (0x1E, [0xEF, 0xFE]),
   (0x2D, [0xDF, 0xFD]),
   (0x51, [0xAF, 0xFA]),
   (0x56, [0xFF]),
   (0x5A, [0xDF, 0xFD]),
   (0x5D, [0xDF, 0xFD]),
   (0xAA, [0x1F, 0x35, 0x53, 0xF1]),
   (0xAD, [0xAF, 0xDF, 0xFA, 0xFD]),
   (0xAF, [0x6F, 0x9A, 0xA9, 0xF6]),
   (0xDD, [0xDF, 0xFD]),
   (0xE7, [0x7F, 0xF7]),
   (0xEE, [0xEF, 0xFE])]

/-- `E32`, 428 pairs (appendix A.2). -/
def e32 : PairSet :=
  [(0x1B, [0xBF, 0xFB]),
   (0x21, [0x1F, 0x35, 0x53, 0xF1]),
   (0x22, [0x2F, 0x3A, 0x56, 0x65, 0xA3, 0xF2]),
   (0x24, [0x4F, 0x5C, 0x6A, 0xA6, 0xC5, 0xF4]),
   (0x28, [0x8F, 0xAC, 0xCA, 0xF8]),
   (0x29, [0x9F, 0xF9]),
   (0x31, [0x6F, 0x9A, 0xA9, 0xBF, 0xF6, 0xFB]),
   (0x32, [0xCF, 0xFC]),
   (0x33, [0x3F, 0x59, 0x95, 0xF3]),
   (0x34, [0x9F, 0xF9]),
   (0x36, [0x1F, 0x35, 0x53, 0x6F, 0x9A, 0xA9, 0xBF, 0xF1, 0xF6, 0xFB]),
   (0x38, [0x3F, 0x59, 0x95, 0xF3]),
   (0x39, [0x9F, 0xF9]),
   (0x3B, [0x1F, 0x35, 0x53, 0x6F, 0x9A, 0xA9, 0xBF, 0xF1, 0xF6, 0xFB]),
   (0x3C, [0x2F, 0x3A, 0x56, 0x65, 0x7F, 0xA3, 0xCF, 0xF2, 0xF7, 0xFC]),
   (0x3D, [0x3F, 0x59, 0x95, 0xF3])]  ++
  [(0x3E, [0x9F, 0xF9]),
   (0x41, [0x1F, 0x35, 0x53, 0xF1]),
   (0x42, [0x2F, 0x3A, 0x56, 0x65, 0xA3, 0xF2]),
   (0x43, [0x3F, 0x59, 0x95, 0xF3]),
   (0x44, [0x4F, 0x5C, 0x6A, 0xA6, 0xC5, 0xF4]),
   (0x46, [0x6F, 0x9A, 0xA9, 0xF6]),
   (0x48, [0x8F, 0xAC, 0xCA, 0xF8]),
   (0x4C, [0xCF, 0xFC]),
   (0x61, [0x1F, 0x35, 0x53, 0x6F, 0x9A, 0xA9, 0xF1, 0xF6]),
   (0x62, [0x2F, 0x3A, 0x56, 0x5B, 0x65, 0xA3, 0xB5, 0xCF, 0xF2, 0xFC]),
   (0x63, [0x2A, 0x3F, 0x45, 0x54, 0x59, 0x5E, 0x7A, 0x8F, 0x95, 0xA2, 0xA7, 0xAC, 0xCA, 0xDF, 0xE5, 0xF3, 0xF8, 0xFD]),
   (0x64, [0x4F, 0x5C, 0x6A, 0xA6, 0xAB, 0xBA, 0xC5, 0xF4]),
   (0x66, [0x1F, 0x35, 0x4A, 0x53, 0x58, 0x5D, 0x6F, 0x85, 0x9A, 0xA4, 0xA9, 0xAE, 0xD5, 0xEA, 0xF1, 0xF6]),
   (0x67, [0x2F, 0x3A, 0x56, 0x5B, 0x65, 0xA3, 0xAD, 0xB5, 0xCF, 0xDA, 0xF2, 0xFC]),
   (0x68, [0x8F, 0xAC, 0xCA, 0xF8]),
   (0x69, [0x1A, 0x25, 0x4F, 0x52, 0x57, 0x5C, 0x6A, 0x75, 0xA1, 0xA6, 0xAB, 0xBA, 0xC5, 0xF4])]  ++
  [(0x6B, [0x1F, 0x35, 0x4A, 0x53, 0x58, 0x5D, 0x6F, 0x85, 0x9A, 0xA4, 0xA9, 0xAE, 0xD5, 0xEA, 0xF1, 0xF6]),
   (0x6C, [0x15, 0x2F, 0x3A, 0x51, 0x56, 0x5B, 0x65, 0x8A, 0xA3, 0xA8, 0xAD, 0xB5, 0xCF, 0xDA, 0xF2, 0xFC]),
   (0x6D, [0x5E, 0x7A, 0x8F, 0xA7, 0xAC, 0xCA, 0xE5, 0xF8]),
   (0x6E, [0x4F, 0x5C, 0x6A, 0xA6, 0xAB, 0xBA, 0xC5, 0xF4]),
   (0x91, [0x1F, 0x35, 0x53, 0x6F, 0x9A, 0xA9, 0xBF, 0xF1, 0xF6, 0xFB]),
   (0x92, [0x2F, 0x3A, 0x56, 0x65, 0x7F, 0xA3, 0xCF, 0xF2, 0xF7, 0xFC]),
   (0x93, [0x3F, 0x59, 0x95, 0xF3]),
   (0x94, [0x4F, 0x5C, 0x6A, 0x9F, 0xA6, 0xC5, 0xEF, 0xF4, 0xF9, 0xFE]),
   (0x96, [0x1F, 0x35, 0x53, 0x6F, 0x9A, 0xA9, 0xBF, 0xF1, 0xF6, 0xFB]),
   (0x98, [0x3F, 0x59, 0x8F, 0x95, 0xAC, 0xCA, 0xDF, 0xF3, 0xF8, 0xFD]),
   (0x9C, [0x2F, 0x3A, 0x56, 0x65, 0x7F, 0xA3, 0xCF, 0xF2, 0xF7, 0xFC]),
   (0x9D, [0x3F, 0x59, 0x95, 0xF3]),
   (0xB1, [0x1F, 0x35, 0x53, 0xF1]),
   (0xB2, [0x2F, 0x3A, 0x56, 0x65, 0xA3, 0xF2]),
   (0xB3, [0x3F, 0x59, 0x95, 0xF3]),
   (0xB4, [0x4F, 0x5C, 0x6A, 0xA6, 0xC5, 0xF4])]  ++
  [(0xB6, [0x6F, 0x9A, 0xA9, 0xF6]),
   (0xB8, [0x8F, 0xAC, 0xCA, 0xF8]),
   (0xBC, [0xCF, 0xFC]),
   (0xC1, [0x6F, 0x9A, 0xA9, 0xBF, 0xF6, 0xFB]),
   (0xC2, [0xCF, 0xFC]),
   (0xC3, [0x3F, 0x59, 0x8F, 0x95, 0xAC, 0xCA, 0xDF, 0xF3, 0xF8, 0xFD]),
   (0xC6, [0x1F, 0x35, 0x53, 0x6F, 0x9A, 0xA9, 0xBF, 0xF1, 0xF6, 0xFB]),
   (0xC7, [0xCF, 0xFC]),
   (0xC9, [0x4F, 0x5C, 0x6A, 0x9F, 0xA6, 0xC5, 0xEF, 0xF4, 0xF9, 0xFE]),
   (0xCB, [0x1F, 0x35, 0x53, 0x6F, 0x9A, 0xA9, 0xBF, 0xF1, 0xF6, 0xFB]),
   (0xCC, [0x2F, 0x3A, 0x56, 0x65, 0xA3, 0xCF, 0xF2, 0xFC]),
   (0xD1, [0x1F, 0x35, 0x53, 0xF1]),
   (0xD2, [0x2F, 0x3A, 0x56, 0x65, 0xA3, 0xF2]),
   (0xD4, [0x4F, 0x5C, 0x6A, 0xA6, 0xC5, 0xF4]),
   (0xD8, [0x8F, 0xAC, 0xCA, 0xF8]),
   (0xD9, [0x9F, 0xF9])]  ++
  [(0xEB, [0xBF, 0xFB])]

/-- `EX87`, 592 pairs (appendix A.3). -/
def ex87 : PairSet :=
  [(0x25, [0x5F, 0xF5]),
   (0x29, [0x9F, 0xF9]),
   (0x2A, [0xAF, 0xFA]),
   (0x31, [0x6F, 0x9A, 0xA9, 0xBF, 0xF6, 0xFB]),
   (0x32, [0xCF, 0xFC]),
   (0x33, [0x3F, 0x59, 0x95, 0xF3]),
   (0x34, [0x9F, 0xF9]),
   (0x36, [0x1F, 0x35, 0x53, 0x6F, 0x9A, 0xA9, 0xBF, 0xF1, 0xF6, 0xFB]),
   (0x38, [0x3F, 0x59, 0x95, 0xF3]),
   (0x39, [0x9F, 0xF9]),
   (0x3B, [0x1F, 0x35, 0x53, 0x6F, 0x9A, 0xA9, 0xBF, 0xF1, 0xF6, 0xFB]),
   (0x3C, [0x2F, 0x3A, 0x56, 0x65, 0x7F, 0xA3, 0xCF, 0xF2, 0xF7, 0xFC]),
   (0x3D, [0x3F, 0x59, 0x95, 0xF3]),
   (0x3E, [0x9F, 0xF9]),
   (0x43, [0x3F, 0x59, 0x95, 0xF3]),
   (0x46, [0x6F, 0x9A, 0xA9, 0xF6])]  ++
  [(0x4C, [0xCF, 0xFC]),
   (0x51, [0x1F, 0x35, 0x4F, 0x53, 0x5C, 0x6A, 0xA6, 0xC5, 0xDF, 0xF1, 0xF4, 0xFD]),
   (0x52, [0x2F, 0x3A, 0x56, 0x5F, 0x65, 0x8F, 0xA3, 0xAC, 0xCA, 0xF2, 0xF5, 0xF8]),
   (0x54, [0x1F, 0x35, 0x4F, 0x53, 0x5C, 0x6A, 0xA6, 0xAF, 0xC5, 0xDF, 0xF1, 0xF4, 0xFA, 0xFD]),
   (0x55, [0x2F, 0x3A, 0x56, 0x5F, 0x65, 0x8F, 0xA3, 0xAC, 0xCA, 0xF2, 0xF5, 0xF8]),
   (0x57, [0x4F, 0x5C, 0x6A, 0xA6, 0xC5, 0xF4]),
   (0x58, [0x2F, 0x3A, 0x56, 0x5F, 0x65, 0x8F, 0xA3, 0xAC, 0xCA, 0xF2, 0xF5, 0xF8]),
   (0x5A, [0x1F, 0x35, 0x4F, 0x53, 0x5C, 0x6A, 0x7F, 0xA6, 0xAF, 0xC5, 0xDF, 0xF1, 0xF4, 0xF7, 0xFA, 0xFD]),
   (0x5D, [0x1F, 0x35, 0x4F, 0x53, 0x5C, 0x6A, 0xA6, 0xC5, 0xF1, 0xF4]),
   (0x5E, [0x5F, 0x8F, 0xAC, 0xCA, 0xF5, 0xF8]),
   (0x61, [0x1F, 0x35, 0x53, 0x6F, 0x9A, 0xA9, 0xF1, 0xF6]),
   (0x62, [0x2F, 0x3A, 0x56, 0x5B, 0x65, 0xA3, 0xB5, 0xCF, 0xF2, 0xFC]),
   (0x63, [0x2A, 0x3F, 0x45, 0x54, 0x59, 0x5E, 0x7A, 0x8F, 0x95, 0xA2, 0xA7, 0xAC, 0xCA, 0xDF, 0xE5, 0xF3, 0xF8, 0xFD]),
   (0x64, [0x4F, 0x5C, 0x6A, 0xA6, 0xAB, 0xBA, 0xC5, 0xF4]),
   (0x66, [0x1F, 0x35, 0x4A, 0x53, 0x58, 0x5D, 0x6F, 0x85, 0x9A, 0xA4, 0xA9, 0xAE, 0xD5, 0xEA, 0xF1, 0xF6]),
   (0x67, [0x2F, 0x3A, 0x56, 0x5B, 0x65, 0xA3, 0xAD, 0xB5, 0xCF, 0xDA, 0xF2, 0xFC])]  ++
  [(0x68, [0x8F, 0xAC, 0xCA, 0xF8]),
   (0x69, [0x1A, 0x25, 0x4F, 0x52, 0x57, 0x5C, 0x6A, 0x75, 0xA1, 0xA6, 0xAB, 0xBA, 0xC5, 0xF4]),
   (0x6B, [0x1F, 0x35, 0x4A, 0x53, 0x58, 0x5D, 0x6F, 0x85, 0x9A, 0xA4, 0xA9, 0xAE, 0xD5, 0xEA, 0xF1, 0xF6]),
   (0x6C, [0x15, 0x2F, 0x3A, 0x51, 0x56, 0x5B, 0x65, 0x8A, 0xA3, 0xA8, 0xAD, 0xB5, 0xCF, 0xDA, 0xF2, 0xFC]),
   (0x6D, [0x5E, 0x7A, 0x8F, 0xA7, 0xAC, 0xCA, 0xE5, 0xF8]),
   (0x6E, [0x4F, 0x5C, 0x6A, 0xA6, 0xAB, 0xBA, 0xC5, 0xF4]),
   (0x71, [0x1F, 0x35, 0x53, 0xF1]),
   (0x72, [0x2F, 0x3A, 0x56, 0x65, 0xA3, 0xF2]),
   (0x74, [0x4F, 0x5C, 0x6A, 0xA6, 0xC5, 0xF4]),
   (0x75, [0x5F, 0xF5]),
   (0x78, [0x8F, 0xAC, 0xCA, 0xF8]),
   (0x7A, [0xAF, 0xFA]),
   (0x81, [0x1F, 0x35, 0x53, 0xF1]),
   (0x82, [0x2F, 0x3A, 0x56, 0x65, 0xA3, 0xF2]),
   (0x84, [0x4F, 0x5C, 0x6A, 0xA6, 0xC5, 0xF4]),
   (0x85, [0x5F, 0xF5])]  ++
  [(0x88, [0x8F, 0xAC, 0xCA, 0xF8]),
   (0x8A, [0xAF, 0xFA]),
   (0x91, [0x1F, 0x35, 0x53, 0x6F, 0x9A, 0xA9, 0xBF, 0xF1, 0xF6, 0xFB]),
   (0x92, [0x2F, 0x3A, 0x56, 0x65, 0x7F, 0xA3, 0xCF, 0xF2, 0xF7, 0xFC]),
   (0x93, [0x3F, 0x59, 0x95, 0xF3]),
   (0x94, [0x4F, 0x5C, 0x6A, 0x9F, 0xA6, 0xC5, 0xEF, 0xF4, 0xF9, 0xFE]),
   (0x96, [0x1F, 0x35, 0x53, 0x6F, 0x9A, 0xA9, 0xBF, 0xF1, 0xF6, 0xFB]),
   (0x98, [0x3F, 0x59, 0x8F, 0x95, 0xAC, 0xCA, 0xDF, 0xF3, 0xF8, 0xFD]),
   (0x9C, [0x2F, 0x3A, 0x56, 0x65, 0x7F, 0xA3, 0xCF, 0xF2, 0xF7, 0xFC]),
   (0x9D, [0x3F, 0x59, 0x95, 0xF3]),
   (0xA1, [0x1F, 0x35, 0x4F, 0x53, 0x5C, 0x6A, 0xA6, 0xAF, 0xC5, 0xDF, 0xF1, 0xF4, 0xFA, 0xFD]),
   (0xA2, [0x2F, 0x3A, 0x56, 0x5F, 0x65, 0x8F, 0xA3, 0xAC, 0xCA, 0xF2, 0xF5, 0xF8]),
   (0xA4, [0x1F, 0x35, 0x4F, 0x53, 0x5C, 0x6A, 0x7F, 0xA6, 0xAF, 0xC5, 0xDF, 0xF1, 0xF4, 0xF7, 0xFA, 0xFD]),
   (0xA5, [0x2F, 0x3A, 0x56, 0x5F, 0x65, 0x8F, 0xA3, 0xAC, 0xCA, 0xEF, 0xF2, 0xF5, 0xF8, 0xFE]),
   (0xA7, [0xAF, 0xFA]),
   (0xA8, [0x2F, 0x3A, 0x56, 0x5F, 0x65, 0x8F, 0xA3, 0xAC, 0xCA, 0xEF, 0xF2, 0xF5, 0xF8, 0xFE])]  ++
  [(0xAA, [0x4F, 0x5C, 0x6A, 0xA6, 0xAF, 0xC5, 0xF4, 0xFA]),
   (0xAD, [0x1F, 0x35, 0x4F, 0x53, 0x5C, 0x6A, 0xA6, 0xAF, 0xC5, 0xF1, 0xF4, 0xFA]),
   (0xB3, [0x3F, 0x59, 0x95, 0xF3]),
   (0xB6, [0x6F, 0x9A, 0xA9, 0xF6]),
   (0xBC, [0xCF, 0xFC]),
   (0xC1, [0x6F, 0x9A, 0xA9, 0xBF, 0xF6, 0xFB]),
   (0xC2, [0xCF, 0xFC]),
   (0xC3, [0x3F, 0x59, 0x8F, 0x95, 0xAC, 0xCA, 0xDF, 0xF3, 0xF8, 0xFD]),
   (0xC6, [0x1F, 0x35, 0x53, 0x6F, 0x9A, 0xA9, 0xBF, 0xF1, 0xF6, 0xFB]),
   (0xC7, [0xCF, 0xFC]),
   (0xC9, [0x4F, 0x5C, 0x6A, 0x9F, 0xA6, 0xC5, 0xEF, 0xF4, 0xF9, 0xFE]),
   (0xCB, [0x1F, 0x35, 0x53, 0x6F, 0x9A, 0xA9, 0xBF, 0xF1, 0xF6, 0xFB]),
   (0xCC, [0x2F, 0x3A, 0x56, 0x65, 0xA3, 0xCF, 0xF2, 0xFC]),
   (0xD5, [0x5F, 0xF5]),
   (0xD9, [0x9F, 0xF9]),
   (0xDA, [0xAF, 0xFA])]

end Sys2Proof.Machine
end

