-- ==== Sys2Proof/Safety.lean ====
section
/-! DEFINITION. The terms claims are stated in: what can be observed of a run (00_scope.md R13), the invariant of the
state, when a frame is ready to be encoded (70_reset_and_hazards.md R164), when a pixel lights a plane
(45_subframe_encoder.md R100), and the named settings of the table's arithmetic (40_alpha_blend_lut.md R83). -/

namespace Sys2Proof.Machine

/-- The observable results of a run (00_scope.md R13). -/
structure Observation where
  responses : List Word
  plane : Memory
  frame : Memory
  cmap : Vector (BitVec 4) 16
  width : BitVec 16
  height : BitVec 16
deriving DecidableEq, Repr

/-- What can be observed at a state (00_scope.md R13). -/
def State.observe (s : State) : Observation where
  responses := s.responses
  plane := s.plane
  frame := s.frame
  cmap := s.cmap
  width := s.width
  height := s.height

/-- A run of `n` steps that no fault ends (60_exceptions.md R144: the fault state "is never final"). -/
def runsSafely (n : Nat) (s : State) : Prop := ∃ t, Host.Core.run Sys2Proof.core n s = .next t

/-- Every address listed is below `size`. -/
abbrev Memory.within (m : Memory) (size : Nat) : Prop := ∀ x ∈ m, x.1 < size

/-- A response word has the format of 30_encoding.md R70: bits [27:16] zero, a status that is produced (60_exceptions.md
R140: 0x7 to 0xF never are), and DATA 0 unless the status is OK. -/
abbrev responseFormat (r : Word) : Prop :=
  r.extractLsb' 16 12 = 0#12 ∧ (r.extractLsb' 28 4).toNat ≤ 6 ∧ (r.extractLsb' 28 4 ≠ 0#4 → r.extractLsb' 0 16 = 0#16)

/-- The invariant of the block's state: both memories in canonical form and within their address spaces (20_memory.md
R48), every response word in the format of 30_encoding.md R70. -/
abbrev State.Inv (s : State) : Prop :=
  s.frame.wf ∧ s.plane.wf ∧ s.frame.within 4096 ∧ s.plane.within 2048 ∧
    (s.responses.all fun r => decide (responseFormat r)) = true

/-- Every byte of the frame, FRAME 0 to N - 1, has been written (70_reset_and_hazards.md R164, step 3). -/
abbrev State.frameLoaded (s : State) : Prop := ∀ a < s.pixelCount, (s.frame.read a).isSome

/-- The frame and its planes fit the block's memories (45_subframe_encoder.md R106). -/
abbrev State.frameFits (s : State) : Prop := s.pixelCount ≤ 4096 ∧ 4 * s.planeSize ≤ 2048

/-- Pixel (col, row) lights plane `k`: its dot is not 0 and bit `k` of its final code is 1 (45_subframe_encoder.md R100). -/
def pixelLights (c : Config) (useCmap : Bool) (s : State) (k row col : Nat) : Prop :=
  ∃ p, s.frame.read (frameAddr s.width.toNat row col) = some p ∧ dot p ≠ 0#4 ∧
    (finalCode c useCmap s (dot p)).getLsbD k = true

/-- How many of the four bits of a code are 1 (45_subframe_encoder.md R109). -/
def popcount (code : BitVec 4) : Nat := [0, 1, 2, 3].countP fun k => code.getLsbD k

/-- The dot functions of the settings of LUT_NUMERICS that 40_alpha_blend_lut.md R83 names. -/
def namedDots : List (Byte → Byte → Nat) := [dotBinary64, dotExact, dotBinary32, dotX87]

/-- The command's response carries a result in DATA; every other command answers 0 there (30_encoding.md R70). -/
def returnsData : Instr → Bool
  | .nop => false
  | .blendAlpha _ _ => true
  | .blendAlphaBoth _ _ => true
  | .setCmap _ _ => false
  | .resetCmap => false
  | .setWidth _ => false
  | .setHeight _ => false
  | .readCfg _ => true
  | .encode _ _ => false
  | .frameWr _ _ => false
  | .frameRd _ => true
  | .planeWr _ _ => false
  | .planeRd _ => true

end Sys2Proof.Machine
end

