-- ==== Sys2Proof/Certificates/Slice0/Obligations.lean ====
section
/-! DEFINITION. The statements about the block, for the provers. Each docstring names the rule of spec/ it formalises.
The block's bit order (`wiredBitOrder`) has no value, so every statement about `exec` or `step` holds for every π. -/

open Sys2Proof Sys2Proof.Machine

/-! ### Encoding -/

/-- Decode and encode agree: every command, with every operand at every value its field admits, is read back from its
word (30_encoding.md R62 to R64, R68). -/
def Obligations.DecodeReadsBackEveryEncodedCommand : Prop :=
  ∀ i : Instr, decode (encode i) = .ok i

/-- Every legal word is the word of the command it decodes to: no bit of a legal word is dropped (30_encoding.md R62,
R66). -/
def Obligations.LegalWordIsTheWordOfItsCommand : Prop :=
  ∀ (w : Word) (i : Instr), decode w = .ok i → encode i = w

/-- 30_encoding.md R64: a word is a command, legal, exactly when it matches that command's row; no word matches two
rows; the three reserved rows are no command. -/
def Obligations.LegalWordsAreThoseOfTheOpcodeMap : Prop :=
  (∀ (w : Word) (i : Instr), decode w = .ok i → w &&& i.row.mask = i.row.pattern) ∧
  (∀ (w : Word) (i : Instr), w &&& i.row.mask = i.row.pattern → ∃ j, decode w = .ok j ∧ j.row = i.row) ∧
  (∀ i : Instr, i.row ∈ opcodeMap) ∧
  opcodeMap.Pairwise (fun r q => ∀ w : Word, w &&& r.mask = r.pattern → w &&& q.mask ≠ q.pattern) ∧
  (∀ w : Word, (w &&& 0xF0000000#32 = 0xD0000000#32 ∨ w &&& 0xF0000000#32 = 0xE0000000#32 ∨
      w &&& 0xF0000000#32 = 0xF0000000#32) → decode w = .error .illegalOpcode)

/-- 30_encoding.md R68: the decoding procedure, opcode by opcode, with the reserved mask of each format and the fields
of R63. -/
def Obligations.DecodingProcedureOfEveryOpcode : Prop :=
  ∀ w : Word,
    (13 ≤ (w.extractLsb' 28 4).toNat → decode w = .error .illegalOpcode) ∧
    ∀ row ∈ ([(0x0, 0x0FFFFFFF#32, .nop),
        (0x1, 0x0FFF0000#32, .blendAlpha (w.extractLsb' 8 8) (w.extractLsb' 0 8)),
        (0x2, 0x0FFF0000#32, .blendAlphaBoth (w.extractLsb' 8 8) (w.extractLsb' 0 8)),
        (0x3, 0x0FFFFF00#32, .setCmap (w.extractLsb' 4 4) (w.extractLsb' 0 4)),
        (0x4, 0x0FFFFFFF#32, .resetCmap),
        (0x5, 0x0FFF0000#32, .setWidth (w.extractLsb' 0 16)),
        (0x6, 0x0FFF0000#32, .setHeight (w.extractLsb' 0 16)),
        (0x7, 0x0FFFFF00#32, .readCfg (w.extractLsb' 0 8)),
        (0x8, 0x0FFFFFE0#32, .encode (w.getLsbD 4) (w.extractLsb' 0 4)),
        (0x9, 0x00000000#32, .frameWr (w.extractLsb' 8 20) (w.extractLsb' 0 8)),
        (0xA, 0x000000FF#32, .frameRd (w.extractLsb' 8 20)),
        (0xB, 0x00000000#32, .planeWr (w.extractLsb' 8 20) (w.extractLsb' 0 8)),
        (0xC, 0x000000FF#32, .planeRd (w.extractLsb' 8 20))] : List (Nat × Word × Instr)),
      (w.extractLsb' 28 4).toNat = row.1 →
        decode w = if w &&& row.2.1 = 0#32 then .ok row.2.2 else .error .reservedBits

/-- A few words written out bit by bit from 30_encoding.md R62 decode to the commands they stand for. -/
def Obligations.WordsWrittenOutDecodeAsTheSpecSays : Prop :=
  decode 0b00000000000000000000000000000000#32 = .ok .nop ∧
  decode 0b00010000000000000001111100000000#32 = .ok (.blendAlpha 0x1F#8 0x00#8) ∧
  decode 0b00110000000000000000000000111100#32 = .ok (.setCmap 3#4 12#4) ∧
  decode 0b01010000000000000000000010000000#32 = .ok (.setWidth 128#16) ∧
  decode 0b10000000000000000000000000010100#32 = .ok (.encode true 4#4) ∧
  decode 0b10010000000011111111111110101011#32 = .ok (.frameWr 0xFFF#20 0xAB#8) ∧
  decode 0b11000000000000000000010100000000#32 = .ok (.planeRd 5#20) ∧
  decode 0b11010000000000000000000000000000#32 = .error .illegalOpcode ∧
  decode 0b10000000000000000000000001000100#32 = .error .reservedBits

/-- 30_encoding.md R71: the word of each text form, for operands that fit their fields; a line of any form with an
operand outside its field's bounds is refused, never truncated. -/
def Obligations.AssemblerWordsAndRefusals : Prop :=
  (∀ src dst, (2 ^ 8 ≤ src ∨ 2 ^ 8 ≤ dst) →
    (Asm.alpha src dst).assemble = none ∧ (Asm.alphaboth src dst).assemble = none) ∧
  (∀ idx val, (2 ^ 4 ≤ idx ∨ 2 ^ 4 ≤ val) → (Asm.setcmap idx val).assemble = none) ∧
  (∀ imm, 2 ^ 16 ≤ imm → (Asm.setw imm).assemble = none ∧ (Asm.seth imm).assemble = none) ∧
  (∀ sel, 2 ^ 8 ≤ sel → (Asm.rdcfg sel).assemble = none) ∧
  (∀ nsub cmap, 2 ^ 4 ≤ nsub → (Asm.encode nsub cmap).assemble = none) ∧
  (∀ addr data, (2 ^ 20 ≤ addr ∨ 2 ^ 8 ≤ data) →
    (Asm.fwr addr data).assemble = none ∧ (Asm.pwr addr data).assemble = none) ∧
  (∀ addr, 2 ^ 20 ≤ addr → (Asm.frd addr).assemble = none ∧ (Asm.prd addr).assemble = none) ∧
  Asm.nop.assemble = some 0x00000000#32 ∧ Asm.resetcmap.assemble = some 0x40000000#32 ∧
  (∀ src dst, src < 2 ^ 8 → dst < 2 ^ 8 →
    (Asm.alpha src dst).assemble = some (BitVec.ofNat 32 (0x10000000 ||| src <<< 8 ||| dst)) ∧
    (Asm.alphaboth src dst).assemble = some (BitVec.ofNat 32 (0x20000000 ||| src <<< 8 ||| dst))) ∧
  (∀ idx val, idx < 2 ^ 4 → val < 2 ^ 4 →
    (Asm.setcmap idx val).assemble = some (BitVec.ofNat 32 (0x30000000 ||| idx <<< 4 ||| val))) ∧
  (∀ imm, imm < 2 ^ 16 →
    (Asm.setw imm).assemble = some (BitVec.ofNat 32 (0x50000000 ||| imm)) ∧
    (Asm.seth imm).assemble = some (BitVec.ofNat 32 (0x60000000 ||| imm))) ∧
  (∀ sel, sel < 2 ^ 8 → (Asm.rdcfg sel).assemble = some (BitVec.ofNat 32 (0x70000000 ||| sel))) ∧
  (∀ nsub, nsub < 2 ^ 4 →
    (Asm.encode nsub false).assemble = some (BitVec.ofNat 32 (0x80000000 ||| nsub)) ∧
    (Asm.encode nsub true).assemble = some (BitVec.ofNat 32 (0x80000010 ||| nsub))) ∧
  (∀ addr data, addr < 2 ^ 20 → data < 2 ^ 8 →
    (Asm.fwr addr data).assemble = some (BitVec.ofNat 32 (0x90000000 ||| addr <<< 8 ||| data)) ∧
    (Asm.pwr addr data).assemble = some (BitVec.ofNat 32 (0xB0000000 ||| addr <<< 8 ||| data))) ∧
  (∀ addr, addr < 2 ^ 20 →
    (Asm.frd addr).assemble = some (BitVec.ofNat 32 (0xA0000000 ||| addr <<< 8)) ∧
    (Asm.prd addr).assemble = some (BitVec.ofNat 32 (0xC0000000 ||| addr <<< 8)))

/-- 30_encoding.md R72: what each pseudo-command expands to; `lutrd` reads the table at its index. -/
def Obligations.PseudoCommandExpansions : Prop :=
  (∀ idx, idx < 2 ^ 16 →
    (Pseudo.lutrd idx).assemble = some [BitVec.ofNat 32 (0x20000000 ||| idx)] ∧
    ∀ s : State, runWord (BitVec.ofNat 32 (0x20000000 ||| idx)) s =
      .next { s with responses := s.responses ++ [(lut .binary64 (BitVec.ofNat 16 idx)).setWidth 32] }) ∧
  (∀ w h, w < 2 ^ 16 → h < 2 ^ 16 → (Pseudo.setdims w h).assemble =
    some [BitVec.ofNat 32 (0x50000000 ||| w), BitVec.ofNat 32 (0x60000000 ||| h)]) ∧
  (∀ vs : List Nat, vs.length = 16 → (∀ v ∈ vs, v < 2 ^ 4) → (Pseudo.loadcmap vs).assemble =
    some ((List.range 16).map fun i => BitVec.ofNat 32 (0x30000000 ||| i <<< 4 ||| vs.getD i 0))) ∧
  (∀ (addr : Nat) (bs : List Nat), bs ≠ [] → addr + bs.length ≤ 2 ^ 20 → (∀ b ∈ bs, b < 2 ^ 8) →
    (Pseudo.fwrs addr bs).assemble =
      some ((List.range bs.length).map fun i => BitVec.ofNat 32 (0x90000000 ||| (addr + i) <<< 8 ||| bs.getD i 0))) ∧
  Pseudo.encode4.assemble = some [0x80000004#32] ∧ Pseudo.encode4m.assemble = some [0x80000014#32]

/-! ### The step, the response, rejection -/

/-- A step runs the command that the next word of the port decodes to, after that word has been taken (00_scope.md R12,
30_encoding.md R68, 20_memory.md R50). -/
def Obligations.StepRunsTheDecodedCommand : Prop :=
  ∀ (s : State) (w : Word) (rest : List HostInput) (i : Instr),
    s.incoming = .command w :: rest → decode w = .ok i → step s = exec i { s with incoming := rest }

/-- With nothing sent, the block is idle and keeps all state (60_exceptions.md R153). That a step is then taken at all
is the model's choice (log entry 8). -/
def Obligations.IdleStepKeepsAllState : Prop :=
  ∀ s : State, s.incoming = [] → step s = .next s

/-- 30_encoding.md R65: a word with opcode 0xD, 0xE or 0xF is rejected with ILLEGAL_OPCODE and changes no state. -/
def Obligations.ReservedOpcodeIsRejected : Prop :=
  ∀ (s : State) (w : Word) (rest : List HostInput), s.incoming = .command w :: rest →
    13 ≤ (w.extractLsb' 28 4).toNat →
    step s = .next { s with incoming := rest, responses := s.responses ++ [0x10000000#32] }

/-- 30_encoding.md R66: a word with a defined opcode and a reserved bit of its format set is rejected with
RESERVED_BITS and changes no state. -/
def Obligations.ReservedBitIsRejected : Prop :=
  ∀ (s : State) (w : Word) (rest : List HostInput), s.incoming = .command w :: rest →
    ∀ row ∈ ([(0x0, 0x0FFFFFFF#32), (0x1, 0x0FFF0000#32), (0x2, 0x0FFF0000#32), (0x3, 0x0FFFFF00#32),
        (0x4, 0x0FFFFFFF#32), (0x5, 0x0FFF0000#32), (0x6, 0x0FFF0000#32), (0x7, 0x0FFFFF00#32),
        (0x8, 0x0FFFFFE0#32), (0x9, 0x00000000#32), (0xA, 0x000000FF#32), (0xB, 0x00000000#32),
        (0xC, 0x000000FF#32)] : List (Nat × Word)),
      (w.extractLsb' 28 4).toNat = row.1 → w &&& row.2 ≠ 0#32 →
        step s = .next { s with incoming := rest, responses := s.responses ++ [0x20000000#32] }

/-- 30_encoding.md R69: a command word that the model answers, legal or not, gives exactly one response word; the word
has the format of R70 (DATA 0 for every command that returns nothing), the command is taken from the port, and the
place in the host's sequence advances by one (10_state.md R21; how the model holds the place is its choice, log entry 7). -/
def Obligations.EveryCommandWordGetsOneResponse : Prop :=
  ∀ (s t : State) (w : Word) (rest : List HostInput), s.incoming = .command w :: rest → step s = .next t →
    t.incoming = rest ∧ t.place = s.place + 1 ∧
    ∃ r, t.responses = s.responses ++ [r] ∧ responseFormat r ∧
      ((∀ i, decode w = .ok i → returnsData i = false) → r.extractLsb' 0 16 = 0#16)

/-- 60_exceptions.md R141: a rejected command changes nothing: its response has DATA 0, every register and both
memories keep their values, and the next command is the next one sent. -/
def Obligations.RejectionChangesNoState : Prop :=
  ∀ (s t : State) (w r : Word) (rest : List HostInput), s.incoming = .command w :: rest → step s = .next t →
    t.responses = s.responses ++ [r] → r.extractLsb' 28 4 ≠ 0#4 →
    r.extractLsb' 0 28 = 0#28 ∧ t = { s with incoming := rest, responses := s.responses ++ [r] }

/-- 60_exceptions.md R142: the status of a command word's response, cause by cause in the order of the rule. -/
def Obligations.StatusReportsTheFirstCause : Prop :=
  ∀ (s t : State) (w r : Word) (rest : List HostInput), s.incoming = .command w :: rest → step s = .next t →
    t.responses = s.responses ++ [r] →
    let opc := (w.extractLsb' 28 4).toNat
    let sel := (w.extractLsb' 0 8).toNat
    let addr := (w.extractLsb' 8 20).toNat
    let n := s.width.toNat * s.height.toNat
    (r.extractLsb' 28 4).toNat =
      if 13 ≤ opc then 1
      else if (opc = 0 ∨ opc = 4) ∧ w.extractLsb' 0 28 ≠ 0#28 then 2
      else if (opc = 1 ∨ opc = 2 ∨ opc = 5 ∨ opc = 6) ∧ w.extractLsb' 16 12 ≠ 0#12 then 2
      else if (opc = 3 ∨ opc = 7) ∧ w.extractLsb' 8 20 ≠ 0#20 then 2
      else if opc = 8 ∧ w.extractLsb' 5 23 ≠ 0#23 then 2
      else if (opc = 10 ∨ opc = 12) ∧ w.extractLsb' 0 8 ≠ 0#8 then 2
      else if opc = 7 ∧ (0x12 ≤ sel ∧ sel ≤ 0x1F ∨ 0x30 ≤ sel) then 3
      else if opc = 8 ∧ w.extractLsb' 0 4 ≠ 4#4 then 4
      else if (opc = 9 ∨ opc = 10) ∧ 4096 ≤ addr then 6
      else if (opc = 11 ∨ opc = 12) ∧ 2048 ≤ addr then 6
      else if opc = 8 ∧ (4096 < n ∨ 2048 < 4 * ((n + 7) / 8)) then 5
      else 0

/-- The model never refuses, and a fault is always a read of a byte nothing has written: by FRAME_RD, by PLANE_RD, or by
an accepted ENCODE within its frame (60_exceptions.md R144; log entry 4). That the fault names the byte's address is the
model's choice (log entry 9). -/
def Obligations.FaultsAreReadsOfUnwrittenBytes : Prop :=
  (∀ (s : State) (r : Refusal), step s ≠ .refused r) ∧
  ∀ (s : State) (f : Fault), step s = .fault f →
    ∃ w rest i, s.incoming = .command w :: rest ∧ decode w = .ok i ∧
      ((∃ addr : BitVec 20, i = .frameRd addr ∧ addr.toNat < 4096 ∧ s.frame.read addr.toNat = none ∧
          f = .unwrittenFrame addr.toNat) ∨
       (∃ addr : BitVec 20, i = .planeRd addr ∧ addr.toNat < 2048 ∧ s.plane.read addr.toNat = none ∧
          f = .unwrittenPlane addr.toNat) ∨
       (∃ u a, i = .encode u 4#4 ∧ s.frameFits ∧ a < s.pixelCount ∧ s.frame.read a = none ∧ f = .unwrittenFrame a))

/-! ### Reset -/

/-- 70_reset_and_hazards.md R160: what reset leaves: the identity color map, 128 x 32, both memories unwritten, the
table and the bit-order table readable at once. -/
def Obligations.ResetLeavesTheSpecsValues : Prop :=
  (∀ i : BitVec 4, State.reset.readCmap i = i) ∧ State.reset.width = 128#16 ∧ State.reset.height = 32#16 ∧
  (∀ a, State.reset.frame.read a = none) ∧ (∀ a, State.reset.plane.read a = none) ∧
  (∀ src dst : BitVec 8, ∃ t, exec (.blendAlphaBoth src dst) State.reset = .next t ∧
    t.responses.getLast? = some ((lut .binary64 (lutIndex src dst)).setWidth 32)) ∧
  (∀ c : BitVec 4, ∃ t, exec (.readCfg (0x2#4 ++ c)) State.reset = .next t ∧
    t.responses.getLast? = some ((hwmap wiredBitOrder c).setWidth 32))

/-- A reset taken between two commands puts every register and both memories at their reset values (70_reset_and_hazards.md
R160). That the host's sequence can hold a reset, and that the port's two lists stay, is the model's choice (log entry
6). -/
def Obligations.ResetBetweenCommands : Prop :=
  ∀ (s : State) (rest : List HostInput), s.incoming = .reset :: rest →
    ∃ t, step s = .next t ∧ (∀ i, t.readCmap i = i) ∧ t.width = 128#16 ∧ t.height = 32#16 ∧
      (∀ a, t.frame.read a = none) ∧ (∀ a, t.plane.read a = none) ∧ t.incoming = rest ∧ t.responses = s.responses

/-! ### The alpha blend table -/

/-- `roundTo` is rounding to the nearest, ties to even (00_scope.md R8): the significand has `p` bits (2^p stands for
the next binade's first value), no other multiple of `2 ^ -scale` is nearer, and of two equally near it is the even
one. That it has this form for every width `p` and at every magnitude, with no least or greatest exponent, is the
model's choice (log entry 10): R8's binary64 and binary32 have exponent ranges, which no value of 40_alpha_blend_lut.md
R81 leaves. -/
def Obligations.RoundingIsToNearestTiesToEven : Prop :=
  ∀ p num den : Nat, 1 ≤ p → 1 ≤ num → 1 ≤ den → num < den * 2 ^ (p - 1) →
    let r := roundTo p num den
    2 ^ (p - 1) ≤ r.sig ∧ r.sig ≤ 2 ^ p ∧
    (∀ m : Nat, ((r.sig * den : Int) - num * 2 ^ r.scale).natAbs ≤ ((m * den : Int) - num * 2 ^ r.scale).natAbs) ∧
    (2 * ((r.sig * den : Int) - num * 2 ^ r.scale).natAbs = den → r.sig % 2 = 0)

/-- 40_alpha_blend_lut.md R81: the dot is the floor of four steps, each rounded once to binary64 in the source's order;
it equals the exact dot less one on the 31 pairs of E64, where the exact value is a natural of at least 1. -/
def Obligations.Binary64DotHasItsIntegerForm : Prop :=
  (∀ s d : Byte,
    let i := roundTo 53 ((dot s).toNat * (alpha s).toNat) 225
    let j := roundTo 53 ((dot d).toNat * (alpha d).toNat * (15 - (alpha s).toNat)) 3375
    let t := roundTo 53 (i.sig * 2 ^ j.scale + j.sig * 2 ^ i.scale) (2 ^ i.scale * 2 ^ j.scale)
    let m := roundTo 53 (t.sig * 15) (2 ^ t.scale)
    dotBinary64 s d = m.sig / 2 ^ m.scale ∧ dotBinary64 s d ≤ 15) ∧
  (∀ s d : Byte, dotBinary64 s d + (if e64.has s d then 1 else 0) = dotExact s d) ∧
  (∀ s d : Byte, e64.has s d = true →
    225 ∣ 15 * (dot s).toNat * (alpha s).toNat + (dot d).toNat * (alpha d).toNat * (15 - (alpha s).toNat)) ∧
  e64.card = 31

/-- 40_alpha_blend_lut.md R83: each other setting equals the exact dot less one on its exception set, where the exact
value is a natural. -/
def Obligations.OtherSettingsHaveTheirIntegerForm : Prop :=
  (∀ s d : Byte, dotBinary32 s d + (if e32.has s d then 1 else 0) = dotExact s d) ∧
  (∀ s d : Byte, dotX87 s d + (if ex87.has s d then 1 else 0) = dotExact s d) ∧
  (∀ s d : Byte, (e32.has s d = true ∨ ex87.has s d = true) →
    225 ∣ 15 * (dot s).toNat * (alpha s).toNat + (dot d).toNat * (alpha d).toNat * (15 - (alpha s).toNat)) ∧
  e32.card = 428 ∧ ex87.card = 592

/-- 40_alpha_blend_lut.md R82: the exact dot's closed form, its bound, and that its setting's table is built on it. -/
def Obligations.ExactDotIsBoundedByFifteen : Prop :=
  ∀ s d : Byte,
    dotExact s d = (15 * (dot s).toNat * (alpha s).toNat + (dot d).toNat * (alpha d).toNat * (15 - (alpha s).toNat)) / 225 ∧
    15 * (dot s).toNat * (alpha s).toNat + (dot d).toNat * (alpha d).toNat * (15 - (alpha s).toNat) ≤ 3375 ∧
    dotExact s d ≤ 15 ∧ lut .exact (lutIndex s d) = lutByte dotExact s d

/-- 40_alpha_blend_lut.md R80: the entry of (s, d) is `(alpha << 4) | dot`: the larger alpha in the high nibble and the
setting's dot in the low one, both lanes holding; the block's setting is BINARY64, the three others are alternatives. -/
def Obligations.TableEntryIsMaxAlphaAndDot : Prop :=
  Config.block.lutNumerics = .binary64 ∧
  ∀ x ∈ ([(.binary64, dotBinary64), (.exact, dotExact), (.binary32, dotBinary32), (.x87, dotX87)] :
      List (LutNumerics × (Byte → Byte → Nat))), ∀ s d : Byte,
    (lut x.1 (lutIndex s d)).toNat = 16 * max (alpha s).toNat (alpha d).toNat + x.2 s d ∧
    (alpha (lut x.1 (lutIndex s d))).toNat = max (alpha s).toNat (alpha d).toNat ∧
    (dot (lut x.1 (lutIndex s d))).toNat = x.2 s d

/-- 40_alpha_blend_lut.md R86: four laws of the table, under every setting of R83; the blends' consequences. -/
def Obligations.TableLawsHoldInEverySetting : Prop :=
  (∀ dotOf ∈ namedDots, ∀ s d : Byte,
    (alpha s = 15#4 → dotOf s d = (dot s).toNat) ∧
    (alpha s = 0#4 → dotOf s d = (dot d).toNat * (alpha d).toNat / 15) ∧
    (alpha d = 0#4 → dotOf s d = (dot s).toNat * (alpha s).toNat / 15) ∧
    (s = 0x00#8 → dotOf s d = (dot d).toNat * (alpha d).toNat / 15 ∧ alpha (lutByte dotOf s d) = alpha d)) ∧
  (∀ numerics ∈ ([.binary64, .exact, .binary32, .x87] : List LutNumerics), ∀ (c : Config) (s d : Byte),
    c.lutNumerics = numerics →
    (alpha s = 0#4 → blendAlphaByte c s d = d) ∧ (alpha s = 15#4 → dot (blendAlphaByte c s d) = dot s))

/-- 40_alpha_blend_lut.md R87: the closed form of BLEND_ALPHA's exact dot, and the 14 pairs at which the block's result
is one lower. -/
def Obligations.BlendAlphaDotIsALinearMix : Prop :=
  ∀ s d : Byte,
    dotExact s (d ||| 0xF0#8) = ((dot s).toNat * (alpha s).toNat + (dot d).toNat * (15 - (alpha s).toNat)) / 15 ∧
    (dot (blendAlphaByte Config.block s d)).toNat +
        (if (s.toNat, (dot d).toNat) ∈ [(0x17, 0x7), (0x1E, 0xE), (0x2D, 0xD), (0x51, 0xA), (0x56, 0xF), (0x5A, 0xD),
          (0x5D, 0xD), (0xAA, 0x1), (0xAD, 0xA), (0xAD, 0xD), (0xAF, 0x6), (0xDD, 0xD), (0xE7, 0x7), (0xEE, 0xE)]
        then 1 else 0) =
      ((dot s).toNat * (alpha s).toNat + (dot d).toNat * (15 - (alpha s).toNat)) / 15

/-- 40_alpha_blend_lut.md R88: two nibble lanes that never carry into each other. Each command answers OK with a byte
whose alpha and dot are as the rule says: BLEND_ALPHA takes its alpha from DST and its dot from the table,
BLEND_ALPHABOTH both from the table, where the alpha is the larger of the two and the dot is bounded by 15. -/
def Obligations.BlendsKeepTheNibbleLanes : Prop :=
  ∀ (src dst : BitVec 8) (s : State),
    (∃ b : Byte, exec (.blendAlpha src dst) s = .next { s with responses := s.responses ++ [b.setWidth 32] } ∧
      alpha b = alpha dst ∧ (dot b).toNat = dotBinary64 src (dst ||| 0xF0#8)) ∧
    (∃ b : Byte, exec (.blendAlphaBoth src dst) s = .next { s with responses := s.responses ++ [b.setWidth 32] } ∧
      (alpha b).toNat = max (alpha src).toNat (alpha dst).toNat ∧ (dot b).toNat = dotBinary64 src dst) ∧
    (alpha (lut .binary64 (lutIndex src dst))).toNat = max (alpha src).toNat (alpha dst).toNat ∧
    (dot (lut .binary64 (lutIndex src dst))).toNat = dotBinary64 src dst ∧
    dotBinary64 src dst ≤ 15

/-! ### The blend commands -/

/-- BLEND_ALPHA answers the table's dot at (SRC, DST or 0xF0) under DST's own alpha, and changes no state
(40_alpha_blend_lut.md R84, pseudocode). -/
def Obligations.BlendAlphaCompletes : Prop :=
  ∀ (src dst : BitVec 8) (s : State),
    exec (.blendAlpha src dst) s = .next { s with responses := s.responses ++
      [((dst &&& 0xF0#8) ||| (lutByte dotBinary64 src (dst ||| 0xF0#8) &&& 0x0F#8)).setWidth 32] }

/-- BLEND_ALPHABOTH answers the table's byte at (SRC, DST), and changes no state (40_alpha_blend_lut.md R85,
pseudocode). -/
def Obligations.BlendAlphaBothCompletes : Prop :=
  ∀ (src dst : BitVec 8) (s : State),
    exec (.blendAlphaBoth src dst) s =
      .next { s with responses := s.responses ++ [(lutByte dotBinary64 src dst).setWidth 32] }

/-! ### Configuration commands -/

/-- 48_host_and_control.md R120: NOP answers OK and changes nothing; its one word is all zeros, and any other word of
its opcode is rejected by decoding. -/
def Obligations.NopCompletes : Prop :=
  (∀ s : State, exec .nop s = .next { s with responses := s.responses ++ [0x00000000#32] }) ∧
  encode .nop = 0x00000000#32 ∧ (∀ w : Word, decode w = .ok .nop ↔ w = 0x00000000#32) ∧
  (∀ w : Word, w.extractLsb' 28 4 = 0x0#4 → w.extractLsb' 0 28 ≠ 0#28 → decode w = .error .reservedBits)

/-- 45_subframe_encoder.md R101: SET_CMAP writes one entry, whatever the value, and nothing else; its encoding, its
reserved bits, its example; writing entry 0 has no effect on what ENCODE computes. -/
def Obligations.SetCmapWritesOneEntry : Prop :=
  (∀ (idx val : BitVec 4) (s : State), ∃ t, exec (.setCmap idx val) s = .next t ∧
    t.readCmap idx = val ∧ (∀ j, j ≠ idx → t.readCmap j = s.readCmap j) ∧
    t.width = s.width ∧ t.height = s.height ∧ t.frame = s.frame ∧ t.plane = s.plane ∧ t.incoming = s.incoming ∧
    t.responses = s.responses ++ [0x00000000#32]) ∧
  (∀ idx val : BitVec 4, encode (.setCmap idx val) = BitVec.ofNat 32 (0x30000000 ||| idx.toNat <<< 4 ||| val.toNat)) ∧
  (∀ w : Word, w.extractLsb' 28 4 = 0x3#4 → w.extractLsb' 8 20 ≠ 0#20 → decode w = .error .reservedBits) ∧
  (∀ (c : Config) (u : Bool) (s : State) (v : BitVec 4), encodedPlane c u (s.writeCmap 0#4 v) = encodedPlane c u s) ∧
  (∀ s : State, ∃ t, runWord 0x3000003C#32 s = .next t ∧ t.readCmap 3#4 = 12#4)

/-- 45_subframe_encoder.md R102: RESET_CMAP makes the map the identity and changes nothing else; its word, its reserved
bits; after it ENCODE gives the same planes with USE_CMAP 1 and 0. -/
def Obligations.ResetCmapMakesTheIdentity : Prop :=
  (∀ s : State, ∃ t, exec .resetCmap s = .next t ∧ (∀ i, t.readCmap i = i) ∧
    t.width = s.width ∧ t.height = s.height ∧ t.frame = s.frame ∧ t.plane = s.plane ∧ t.incoming = s.incoming ∧
    t.responses = s.responses ++ [0x00000000#32] ∧
    ∀ c : Config, encodedPlane c true t = encodedPlane c false t) ∧
  encode .resetCmap = 0x40000000#32 ∧
  (∀ w : Word, w.extractLsb' 28 4 = 0x4#4 → w.extractLsb' 0 28 ≠ 0#28 → decode w = .error .reservedBits)

/-- 45_subframe_encoder.md R103: SET_WIDTH takes every 16-bit value and writes nothing else; its encoding and reserved
bits. -/
def Obligations.SetWidthCompletes : Prop :=
  (∀ (imm : BitVec 16) (s : State), exec (.setWidth imm) s =
    .next { s with width := imm, responses := s.responses ++ [0x00000000#32] }) ∧
  (∀ imm : BitVec 16, encode (.setWidth imm) = BitVec.ofNat 32 (0x50000000 ||| imm.toNat)) ∧
  (∀ w : Word, w.extractLsb' 28 4 = 0x5#4 → w.extractLsb' 16 12 ≠ 0#12 → decode w = .error .reservedBits) ∧
  decode 0x50000080#32 = .ok (.setWidth 128#16)

/-- 45_subframe_encoder.md R104: SET_HEIGHT takes every 16-bit value and writes nothing else; its encoding and reserved
bits. -/
def Obligations.SetHeightCompletes : Prop :=
  (∀ (imm : BitVec 16) (s : State), exec (.setHeight imm) s =
    .next { s with height := imm, responses := s.responses ++ [0x00000000#32] }) ∧
  (∀ imm : BitVec 16, encode (.setHeight imm) = BitVec.ofNat 32 (0x60000000 ||| imm.toNat)) ∧
  (∀ w : Word, w.extractLsb' 28 4 = 0x6#4 → w.extractLsb' 16 12 ≠ 0#12 → decode w = .error .reservedBits) ∧
  decode 0x60000020#32 = .ok (.setHeight 32#16)

/-- 48_host_and_control.md R121, R122: READ_CFG answers the register or table entry of every defined selector, rejects
every other with BAD_SELECTOR, and changes no state; its encoding, reserved bits and example. -/
def Obligations.ReadCfgAnswersEverySelector : Prop :=
  (∀ s : State,
    (∀ i : BitVec 4, exec (.readCfg (0x0#4 ++ i)) s =
      .next { s with responses := s.responses ++ [(s.readCmap i).setWidth 32] }) ∧
    exec (.readCfg 0x10#8) s = .next { s with responses := s.responses ++ [s.width.setWidth 32] } ∧
    exec (.readCfg 0x11#8) s = .next { s with responses := s.responses ++ [s.height.setWidth 32] } ∧
    (∀ c : BitVec 4, exec (.readCfg (0x2#4 ++ c)) s =
      .next { s with responses := s.responses ++ [(hwmap wiredBitOrder c).setWidth 32] }) ∧
    (∀ sel : BitVec 8, (0x12 ≤ sel.toNat ∧ sel.toNat ≤ 0x1F ∨ 0x30 ≤ sel.toNat) → exec (.readCfg sel) s =
      .next { s with responses := s.responses ++ [0x30000000#32] })) ∧
  (∀ sel : BitVec 8, encode (.readCfg sel) = BitVec.ofNat 32 (0x70000000 ||| sel.toNat)) ∧
  (∀ w : Word, w.extractLsb' 28 4 = 0x7#4 → w.extractLsb' 8 20 ≠ 0#20 → decode w = .error .reservedBits) ∧
  (∃ t, runWord 0x70000010#32 State.reset = .next t ∧ t.responses = [0x00000080#32])

/-! ### The bit-order table and the code of a pixel -/

/-- 10_state.md R24, for every π: bit k of a code goes to bit π(k); the table is a permutation of the codes and fixes 0
and 15. -/
def Obligations.HwmapMovesEachBitByThePermutation : Prop :=
  ∀ order : BitOrder,
    (∀ (c : BitVec 4) (k : Fin 4), (hwmap order c).getLsbD (order k).val = c.getLsbD k.val) ∧
    (∀ c d : BitVec 4, hwmap order c = hwmap order d → c = d) ∧
    hwmap order 0#4 = 0#4 ∧ hwmap order 15#4 = 15#4

/-- 45_subframe_encoder.md R109: the planes that light a pixel of nonzero dot are as many as the 1 bits of its
intermediate code, for every π, color map and state, since HWMAP keeps the count of ones; a pixel of dot 0 lights none;
and the counts of every dot under the identity map. -/
def Obligations.PlanesLitAreTheOnesOfTheCode : Prop :=
  (∀ (order : BitOrder) (code : BitVec 4), popcount (hwmap order code) = popcount code) ∧
  (∀ (c : Config) (u : Bool) (s : State) (row col : Nat) (p : Byte),
    s.frame.read (frameAddr s.width.toNat row col) = some p →
    (dot p ≠ 0#4 → {k | k < 4 ∧ pixelLights c u s k row col}.ncard =
      popcount (if u then s.readCmap (dot p) else dot p)) ∧
    (dot p = 0#4 → ∀ k, ¬ pixelLights c u s k row col) ∧
    {k | k < 4 ∧ pixelLights c false s k row col}.ncard =
      if dot p = 15#4 then 4
      else if dot p ∈ [7#4, 11#4, 13#4, 14#4] then 3
      else if dot p ∈ [3#4, 5#4, 6#4, 9#4, 10#4, 12#4] then 2
      else if dot p ∈ [1#4, 2#4, 4#4, 8#4] then 1
      else 0)

/-! ### Plane geometry -/

/-- 45_subframe_encoder.md R105: N, P and the byte of a pixel; a pixel never reaches a byte of another plane. -/
def Obligations.PixelStaysInItsPlane : Prop :=
  (∀ s : State, s.pixelCount = s.width.toNat * s.height.toNat ∧ s.pixelCount ≤ 65535 ^ 2 ∧
    s.planeSize = (s.pixelCount + 7) / 8) ∧
  ∀ (s : State) (k row col : Nat), row < s.height.toNat → col < s.width.toNat →
    planeAddr s.width.toNat s.planeSize k row col = k * s.planeSize + (row * s.width.toNat + col) / 8 ∧
    (row * s.width.toNat + col) / 8 ≤ (s.pixelCount - 1) / 8 ∧ (s.pixelCount - 1) / 8 = s.planeSize - 1 ∧
    k * s.planeSize ≤ planeAddr s.width.toNat s.planeSize k row col ∧
    planeAddr s.width.toNat s.planeSize k row col ≤ k * s.planeSize + s.planeSize - 1

/-- When WIDTH is a multiple of 8 each pixel of a plane has its own bit, `col mod 8 = (row * WIDTH + col) mod 8`; at
width 12, pixels (8, 0) and (0, 1) share bit 0 of byte 1 (20_memory.md R45). -/
def Obligations.BitOfAPixelIsItsOwnAtWidthsOfEight : Prop :=
  (∀ width row col, width % 8 = 0 → col % 8 = frameAddr width row col % 8) ∧
  (∀ width row col row' col', width % 8 = 0 → col < width → col' < width →
    frameAddr width row col / 8 = frameAddr width row' col' / 8 → col % 8 = col' % 8 → row = row' ∧ col = col') ∧
  (∀ planeBytes k, planeAddr 12 planeBytes k 0 8 = planeAddr 12 planeBytes k 1 0 ∧
    planeAddr 12 planeBytes k 0 8 = k * planeBytes + 1 ∧ 8 % 8 = 0 ∧ 0 % 8 = 0)

/-- 45_subframe_encoder.md R111: at the reset dimensions N = 4096, P = 512, frame and planes fill the block's memories
exactly, a row is 16 bytes, and no two pixels share a bit. -/
def Obligations.ObservedSizeFillsBothMemories : Prop :=
  State.reset.pixelCount = 4096 ∧ State.reset.planeSize = 512 ∧ 4 * State.reset.planeSize = 2048 ∧
  Config.block.planeMemBytes = 2048 ∧ Config.block.frameMemBytes = 4096 ∧ fitsMemories Config.block State.reset ∧
  (∀ row, frameAddr 128 (row + 1) 0 / 8 = frameAddr 128 row 0 / 8 + 16) ∧
  (∀ row col, col % 8 = (row * 128 + col) % 8) ∧
  (∀ row col row' col', col < 128 → col' < 128 → (row, col) ≠ (row', col') →
    (frameAddr 128 row col / 8, col % 8) ≠ (frameAddr 128 row' col' / 8, col' % 8))

/-! ### ENCODE -/

/-- ENCODE with a count other than 4 is rejected with BAD_SUBFRAME_COUNT, whatever the dimensions
(45_subframe_encoder.md R106, 60_exceptions.md R142). -/
def Obligations.EncodeRejectsEveryOtherCount : Prop :=
  ∀ (u : Bool) (nsub : BitVec 4) (s : State), nsub ≠ 4#4 →
    exec (.encode u nsub) s = .next { s with responses := s.responses ++ [0x40000000#32] }

/-- ENCODE of a frame that does not fit FRAME, or whose planes do not fit PLANE, is rejected with FRAME_EXCEEDS_MEMORY:
for memories of every size, each half of the check alone, and on the block (45_subframe_encoder.md R106, R110 row
`N ≤ FRAME_MEM_BYTES but 4P > PLANE_MEM_BYTES`; 20_memory.md R48). -/
def Obligations.EncodeRejectsAFrameTooLarge : Prop :=
  (∀ (c : Config) (u : Bool) (s : State), c.frameMemBytes < s.width.toNat * s.height.toNat →
    encodeFrame c u 4#4 s = .next { s with responses := s.responses ++ [0x50000000#32] }) ∧
  (∀ (c : Config) (u : Bool) (s : State), s.width.toNat * s.height.toNat ≤ c.frameMemBytes →
    c.planeMemBytes < 4 * ((s.width.toNat * s.height.toNat + 7) / 8) →
    encodeFrame c u 4#4 s = .next { s with responses := s.responses ++ [0x50000000#32] }) ∧
  (∀ (u : Bool) (s : State),
    (4096 < s.width.toNat * s.height.toNat ∨ 2048 < 4 * ((s.width.toNat * s.height.toNat + 7) / 8)) →
    exec (.encode u 4#4) s = .next { s with responses := s.responses ++ [0x50000000#32] })

/-- 60_exceptions.md R143: ENCODE of an empty frame answers OK and writes nothing; no operand of a blend is an error. -/
def Obligations.DegenerateInputsAreNoErrors : Prop :=
  (∀ (u : Bool) (s : State), (s.width = 0#16 ∨ s.height = 0#16) →
    exec (.encode u 4#4) s = .next { s with responses := s.responses ++ [0x00000000#32] }) ∧
  (∀ (src dst : BitVec 8) (s : State),
    (∃ t r, exec (.blendAlpha src dst) s = .next t ∧ t.responses = s.responses ++ [r] ∧ r.extractLsb' 28 4 = 0#4) ∧
    (∃ t r, exec (.blendAlphaBoth src dst) s = .next t ∧ t.responses = s.responses ++ [r] ∧ r.extractLsb' 28 4 = 0#4))

/-- 45_subframe_encoder.md R107, R108: an ENCODE of a loaded frame that fits completes; bit j of byte b of plane k is 1
exactly when a pixel of byte b with `col mod 8 = j` lights plane k; PLANE from 4P on, FRAME and every register keep
their values. The PLANE contents before do not matter. -/
def Obligations.EncodeComputesTheFourPlanes : Prop :=
  ∀ (u : Bool) (s : State), s.frameFits → s.frameLoaded →
    ∃ t, exec (.encode u 4#4) s = .next t ∧
      t.cmap = s.cmap ∧ t.width = s.width ∧ t.height = s.height ∧ t.frame = s.frame ∧ t.incoming = s.incoming ∧
      t.responses = s.responses ++ [0x00000000#32] ∧
      (∀ a, 4 * s.planeSize ≤ a → t.plane.read a = s.plane.read a) ∧
      ∀ k b, k < 4 → b < s.planeSize → ∃ v, t.plane.read (k * s.planeSize + b) = some v ∧
        ∀ j, j < 8 → (v.getLsbD j = true ↔
          ∃ row col, row < s.height.toNat ∧ col < s.width.toNat ∧ frameAddr s.width.toNat row col / 8 = b ∧
            col % 8 = j ∧ pixelLights Config.block u s k row col)

/-- What ENCODE puts in the planes depends only on WIDTH, HEIGHT, the dots of the frame and, with USE_CMAP, the entries
of CMAP other than 0: not on alpha nibbles, not on CMAP[0], not on CMAP at all with USE_CMAP 0, not on the PLANE
contents before (45_subframe_encoder.md R107, R110). -/
def Obligations.EncodeDependsOnlyOnDotsAndMap : Prop :=
  ∀ (u : Bool) (s s' t t' : State), s.width = s'.width → s.height = s'.height → s.frameFits →
    (∀ a < s.pixelCount, (s.frame.read a).map dot = (s'.frame.read a).map dot) →
    (u = true → ∀ d : BitVec 4, d ≠ 0#4 → s.readCmap d = s'.readCmap d) →
    exec (.encode u 4#4) s = .next t → exec (.encode u 4#4) s' = .next t' →
    ∀ a < 4 * s.planeSize, t.plane.read a = t'.plane.read a

/-- An accepted ENCODE faults at the first byte of its frame that nothing has written (48_host_and_control.md R127,
60_exceptions.md R144). That the fault names the first such address is the model's choice (log entry 9). -/
def Obligations.EncodeFaultsAtTheFirstUnwrittenByte : Prop :=
  ∀ (u : Bool) (s : State) (a : Nat), s.frameFits → a < s.pixelCount → s.frame.read a = none →
    (∀ b < a, (s.frame.read b).isSome) → exec (.encode u 4#4) s = .fault (.unwrittenFrame a)

/-- The source's example (45_subframe_encoder.md R106; 95_test_vectors.md L1.3), for every π: a 2 x 1 frame with dots 15
and 0 gives 0x01 in the one byte of each plane. -/
def Obligations.TwoByOneFrameLightsBitZeroOfEachPlane : Prop :=
  ∀ (u : Bool) (s : State), s.width = 2#16 → s.height = 1#16 → s.frame.read 0 = some 0x0F#8 →
    s.frame.read 1 = some 0x00#8 → (u = true → s.readCmap 15#4 = 15#4) →
    ∃ t, exec (.encode u 4#4) s = .next t ∧ t.plane.read 0 = some 0x01#8 ∧ t.plane.read 1 = some 0x01#8 ∧
      t.plane.read 2 = some 0x01#8 ∧ t.plane.read 3 = some 0x01#8 ∧ (∀ a, 4 ≤ a → t.plane.read a = s.plane.read a)

/-! ### Host access -/

/-- 48_host_and_control.md R123: FRAME_WR stores the full byte at ADDR and changes nothing else, PLANE least of all, or
is rejected with ADDR_RANGE; its encoding; no word of its opcode has reserved bits; ENCODE ignores the alpha nibble of
what it stores. -/
def Obligations.FrameWrStoresOneByte : Prop :=
  (∀ (addr : BitVec 20) (data : BitVec 8) (s : State),
    (addr.toNat < 4096 → ∃ t, exec (.frameWr addr data) s = .next t ∧
      t.frame.read addr.toNat = some data ∧ (∀ a, a ≠ addr.toNat → t.frame.read a = s.frame.read a) ∧
      t.plane = s.plane ∧ t.cmap = s.cmap ∧ t.width = s.width ∧ t.height = s.height ∧ t.incoming = s.incoming ∧
      t.responses = s.responses ++ [0x00000000#32]) ∧
    (4096 ≤ addr.toNat → exec (.frameWr addr data) s =
      .next { s with responses := s.responses ++ [0x60000000#32] })) ∧
  (∀ (addr : BitVec 20) (data : BitVec 8),
    encode (.frameWr addr data) = BitVec.ofNat 32 (0x90000000 ||| addr.toNat <<< 8 ||| data.toNat)) ∧
  (∀ w : Word, w.extractLsb' 28 4 = 0x9#4 → ∃ addr data, decode w = .ok (.frameWr addr data)) ∧
  (∀ (c : Config) (u : Bool) (s : State) (a : Nat) (v v' : Byte), dot v = dot v' →
    encodedPlane c u (s.withFrame (s.frame.write a v)) = encodedPlane c u (s.withFrame (s.frame.write a v')))

/-- FRAME_RD answers the byte at ADDR, or ADDR_RANGE, and changes no state (48_host_and_control.md R124); its encoding,
reserved bits and example. That a byte never written faults rests on R127 and 60_exceptions.md R144 (log entry 4); that
the fault names the address is the model's choice (log entry 9). -/
def Obligations.FrameRdAnswersOneByte : Prop :=
  (∀ (addr : BitVec 20) (s : State),
    (∀ v, addr.toNat < 4096 → s.frame.read addr.toNat = some v →
      exec (.frameRd addr) s = .next { s with responses := s.responses ++ [v.setWidth 32] }) ∧
    (addr.toNat < 4096 → s.frame.read addr.toNat = none →
      exec (.frameRd addr) s = .fault (.unwrittenFrame addr.toNat)) ∧
    (4096 ≤ addr.toNat → exec (.frameRd addr) s = .next { s with responses := s.responses ++ [0x60000000#32] })) ∧
  (∀ addr : BitVec 20, encode (.frameRd addr) = BitVec.ofNat 32 (0xA0000000 ||| addr.toNat <<< 8)) ∧
  (∀ w : Word, w.extractLsb' 28 4 = 0xA#4 → w.extractLsb' 0 8 ≠ 0#8 → decode w = .error .reservedBits) ∧
  (∀ s t : State, exec (.frameWr 0#20 0x0F#8) s = .next t →
    exec (.frameRd 0#20) t = .next { t with responses := t.responses ++ [0x0000000F#32] })

/-- 48_host_and_control.md R125: PLANE_WR stores one byte at ADDR and changes nothing else, or is rejected with
ADDR_RANGE; its encoding; no word of its opcode has reserved bits; the planes an ENCODE writes do not depend on what it
stored, and bytes from 4P on keep it. -/
def Obligations.PlaneWrStoresOneByte : Prop :=
  (∀ (addr : BitVec 20) (data : BitVec 8) (s : State),
    (addr.toNat < 2048 → ∃ t, exec (.planeWr addr data) s = .next t ∧
      t.plane.read addr.toNat = some data ∧ (∀ a, a ≠ addr.toNat → t.plane.read a = s.plane.read a) ∧
      t.frame = s.frame ∧ t.cmap = s.cmap ∧ t.width = s.width ∧ t.height = s.height ∧ t.incoming = s.incoming ∧
      t.responses = s.responses ++ [0x00000000#32]) ∧
    (2048 ≤ addr.toNat → exec (.planeWr addr data) s =
      .next { s with responses := s.responses ++ [0x60000000#32] })) ∧
  (∀ (addr : BitVec 20) (data : BitVec 8),
    encode (.planeWr addr data) = BitVec.ofNat 32 (0xB0000000 ||| addr.toNat <<< 8 ||| data.toNat)) ∧
  (∀ w : Word, w.extractLsb' 28 4 = 0xB#4 → ∃ addr data, decode w = .ok (.planeWr addr data)) ∧
  (∀ (u : Bool) (s t t' : State) (a : Nat) (v : Byte), s.frameFits → exec (.encode u 4#4) s = .next t →
    exec (.encode u 4#4) (s.withPlane (s.plane.write a v)) = .next t' →
    (∀ b < 4 * s.planeSize, t'.plane.read b = t.plane.read b) ∧
    (4 * s.planeSize ≤ a → t'.plane.read a = some v))

/-- PLANE_RD answers the byte at ADDR, or ADDR_RANGE, and changes no state (48_host_and_control.md R126); its encoding
and reserved bits. That a byte never written faults rests on R127 and 60_exceptions.md R144 (log entry 4); that the
fault names the address is the model's choice (log entry 9). -/
def Obligations.PlaneRdAnswersOneByte : Prop :=
  (∀ (addr : BitVec 20) (s : State),
    (∀ v, addr.toNat < 2048 → s.plane.read addr.toNat = some v →
      exec (.planeRd addr) s = .next { s with responses := s.responses ++ [v.setWidth 32] }) ∧
    (addr.toNat < 2048 → s.plane.read addr.toNat = none →
      exec (.planeRd addr) s = .fault (.unwrittenPlane addr.toNat)) ∧
    (2048 ≤ addr.toNat → exec (.planeRd addr) s = .next { s with responses := s.responses ++ [0x60000000#32] })) ∧
  (∀ addr : BitVec 20, encode (.planeRd addr) = BitVec.ofNat 32 (0xC0000000 ||| addr.toNat <<< 8)) ∧
  (∀ w : Word, w.extractLsb' 28 4 = 0xC#4 → w.extractLsb' 0 8 ≠ 0#8 → decode w = .error .reservedBits)

/-! ### The whole machine -/

/-- The invariant holds at reset: both memories canonical and within their spaces, every response well formed. -/
def Obligations.ResetMeetsTheInvariant : Prop := State.reset.Inv

/-- Every step keeps the invariant: both memories stay in canonical form and within their address spaces (20_memory.md
R48), and every response word has the format of 30_encoding.md R70 and a status that is not reserved (60_exceptions.md
R140). -/
def Obligations.EveryStepKeepsTheInvariant : Prop :=
  ∀ s t : State, s.Inv → step s = .next t → t.Inv

/-- Who writes what: CMAP only SET_CMAP and RESET_CMAP, WIDTH only SET_WIDTH, HEIGHT only SET_HEIGHT, FRAME only
FRAME_WR, PLANE only ENCODE and PLANE_WR (10_state.md R22, R23, R26, R27); so a later write of FRAME, CMAP or a
dimension leaves PLANE as the last ENCODE left it (70_reset_and_hazards.md R166). -/
def Obligations.EachPieceOfStateHasItsWriters : Prop :=
  ∀ (i : Instr) (s t : State), exec i s = .next t →
    (t.cmap ≠ s.cmap → i = .resetCmap ∨ ∃ idx val, i = .setCmap idx val) ∧
    (t.width ≠ s.width → ∃ imm, i = .setWidth imm) ∧
    (t.height ≠ s.height → ∃ imm, i = .setHeight imm) ∧
    (t.frame ≠ s.frame → ∃ addr data, i = .frameWr addr data) ∧
    (t.plane ≠ s.plane → (∃ u, i = .encode u 4#4) ∨ ∃ addr data, i = .planeWr addr data) ∧
    t.incoming = s.incoming

/-- Every command is idempotent on the block's state, ENCODE included: run again from where it ended, it changes no
register and no byte (20_memory.md R47). -/
def Obligations.EveryCommandIsIdempotent : Prop :=
  ∀ (i : Instr) (s t t' : State), exec i s = .next t → exec i t = .next t' →
    t'.cmap = t.cmap ∧ t'.width = t.width ∧ t'.height = t.height ∧
    (∀ a, t'.frame.read a = t.frame.read a) ∧ (∀ a, t'.plane.read a = t.plane.read a)

/-- 10_state.md R28: a command's outcome is only in its response; what was answered before has no effect on any later
command's effect or answer. -/
def Obligations.EarlierResponsesAffectNoCommand : Prop :=
  ∀ (i : Instr) (s t : State) (earlier : List Word), exec i s = .next t →
    ∃ r, t.responses = s.responses ++ [r] ∧
      exec i { s with responses := earlier } = .next { t with responses := earlier ++ [r] }
end

