-- ==== Sys2Proof/Laws/Lut.lean ====
section
/-! SUPPORT. The table's index and entries taken apart (40_alpha_blend_lut.md R80). -/

namespace Sys2Proof.Machine

@[simp] theorem lutIndex_src (src dst : Byte) : (lutIndex src dst).extractLsb' 8 8 = src := by
  ext i hi
  simp [lutIndex]
  grind

@[simp] theorem lutIndex_dst (src dst : Byte) : (lutIndex src dst).extractLsb' 0 8 = dst := by
  ext i hi
  simp [lutIndex]
  grind

/-- The block's table entry (40_alpha_blend_lut.md R80). -/
theorem lut_binary64 (src dst : Byte) : lut .binary64 (lutIndex src dst) = lutByte dotBinary64 src dst := by
  simp [lut]

theorem lut_exact (src dst : Byte) : lut .exact (lutIndex src dst) = lutByte dotExact src dst := by simp [lut]

theorem lut_binary32 (src dst : Byte) : lut .binary32 (lutIndex src dst) = lutByte dotBinary32 src dst := by simp [lut]

theorem lut_x87 (src dst : Byte) : lut .x87 (lutIndex src dst) = lutByte dotX87 src dst := by simp [lut]

theorem lut_table (entries : BitVec 16 → Byte) (src dst : Byte) :
    lut (.table entries) (lutIndex src dst) = entries (lutIndex src dst) := rfl

end Sys2Proof.Machine
end

