-- ==== Sys2Proof/Laws/Memory.lean ====
section
/-! SUPPORT. What one read and one write of a memory do, that a write keeps the canonical form and the range, and that
canonical memories with the same reads are the same list. The reading laws hold for every list. -/

namespace Sys2Proof.Machine

@[simp] theorem Memory.read_nil (a : Nat) : Memory.read [] a = none := rfl

theorem Memory.read_cons (x : Host.Cell) (m : Memory) (a : Nat) :
    Memory.read (x :: m) a = if x.1 = a then some x.2 else Memory.read m a := rfl

/-- Everything a write does to the reads: the byte written reads as the value, every other byte as before. -/
theorem Memory.read_write (m : Memory) (a b : Nat) (v : Byte) :
    (m.write a v).read b = if a = b then some v else m.read b := by
  induction m with
  | nil => simp [Memory.write, Memory.read_cons]
  | cons x m ih =>
    obtain ⟨k, u⟩ := x
    simp only [Memory.write]
    split
    · simp [Memory.read_cons]
    · split
      · rename_i h; subst h
        simp only [Memory.read_cons]
        split <;> rfl
      · rename_i h
        simp only [Memory.read_cons, ih]
        split
        · rename_i h2; subst h2; simp [h]
        · rfl

@[simp] theorem Memory.read_write_same (m : Memory) (a : Nat) (v : Byte) : (m.write a v).read a = some v := by
  simp [Memory.read_write]

theorem Memory.read_write_other (m : Memory) {a b : Nat} (v : Byte) (h : a ≠ b) :
    (m.write a v).read b = m.read b := by
  simp [Memory.read_write, h]

/-- A write adds at most the address it writes. -/
theorem Memory.mem_write {m : Memory} {a : Nat} {v : Byte} {x : Host.Cell} (h : x ∈ m.write a v) :
    x = (a, v) ∨ x ∈ m := by
  induction m with
  | nil => simpa [Memory.write] using h
  | cons y m ih =>
    simp only [Memory.write] at h
    split at h
    · simpa using h
    · split at h
      · rcases List.mem_cons.mp h with h | h
        · exact .inl h
        · exact .inr (List.mem_cons_of_mem _ h)
      · rcases List.mem_cons.mp h with h | h
        · exact .inr (h ▸ List.mem_cons_self)
        · exact (ih h).imp_right (List.mem_cons_of_mem _)

@[simp] theorem Memory.wf_nil : Memory.wf [] := List.Pairwise.nil

/-- A write keeps the canonical form. -/
theorem Memory.write_wf {m : Memory} (a : Nat) (v : Byte) (h : m.wf) : (m.write a v).wf := by
  induction m with
  | nil => simp [Memory.write, Memory.wf]
  | cons y m ih =>
    have ⟨hy, hm⟩ := List.pairwise_cons.mp h
    simp only [Memory.write]
    split
    · rename_i hlt
      refine List.pairwise_cons.mpr ⟨?_, h⟩
      intro x hx
      rcases List.mem_cons.mp hx with rfl | hx
      · exact hlt
      · exact hlt.trans (hy x hx)
    · split
      · rename_i heq
        exact List.pairwise_cons.mpr ⟨fun x hx => heq ▸ hy x hx, hm⟩
      · refine List.pairwise_cons.mpr ⟨fun x hx => ?_, ih hm⟩
        rcases Memory.mem_write hx with rfl | hx
        · show y.1 < a; omega
        · exact hy x hx

/-- A write within the address space keeps the memory within it. -/
theorem Memory.write_within {m : Memory} {size a : Nat} (v : Byte) (ha : a < size) (h : m.within size) :
    (m.write a v).within size := by
  intro x hx
  rcases Memory.mem_write hx with rfl | hx
  · exact ha
  · exact h x hx

/-- A read finds only what is listed. -/
theorem Memory.mem_of_read {m : Memory} {a : Nat} {v : Byte} (h : m.read a = some v) : (a, v) ∈ m := by
  induction m with
  | nil => simp at h
  | cons y m ih =>
    rw [Memory.read_cons] at h
    split at h
    · rename_i hy; subst hy
      exact List.mem_cons.mpr (.inl (by cases h; rfl))
    · exact List.mem_cons_of_mem _ (ih h)

/-- Below every listed address nothing reads. -/
theorem Memory.read_none_of_lt {m : Memory} {a : Nat} (h : ∀ x ∈ m, a < x.1) : m.read a = none := by
  cases hr : m.read a with
  | none => rfl
  | some v => exact absurd (h _ (Memory.mem_of_read hr)) (lt_irrefl a)

/-- Canonical memories with the same reads are equal: equal memories are equal data. -/
theorem Memory.ext_of_wf {m n : Memory} (hm : m.wf) (hn : n.wf) (h : ∀ a, m.read a = n.read a) : m = n := by
  induction m generalizing n with
  | nil =>
    cases n with
    | nil => rfl
    | cons y n => simpa [Memory.read_cons] using h y.1
  | cons x m ih =>
    cases n with
    | nil => simpa [Memory.read_cons] using h x.1
    | cons y n =>
      obtain ⟨hx, hm⟩ := List.pairwise_cons.mp hm
      obtain ⟨hy, hn⟩ := List.pairwise_cons.mp hn
      have key : x.1 = y.1 := by
        rcases lt_trichotomy x.1 y.1 with hlt | heq | hlt
        · have := h x.1
          rw [Memory.read_none_of_lt (m := y :: n)] at this
          · simp [Memory.read_cons] at this
          · intro z hz
            rcases List.mem_cons.mp hz with rfl | hz
            · exact hlt
            · exact hlt.trans (hy z hz)
        · exact heq
        · have := h y.1
          rw [Memory.read_none_of_lt (m := x :: m)] at this
          · simp [Memory.read_cons] at this
          · intro z hz
            rcases List.mem_cons.mp hz with rfl | hz
            · exact hlt
            · exact hlt.trans (hx z hz)
      have hv : x.2 = y.2 := by simpa [Memory.read_cons, key] using h x.1
      have htail : m = n := by
        refine ih hm hn fun a => ?_
        by_cases ha : x.1 = a
        · rw [Memory.read_none_of_lt (fun z hz => ha ▸ hx z hz),
            Memory.read_none_of_lt (fun z hz => ha ▸ key ▸ hy z hz)]
        · have := h a
          rwa [Memory.read_cons, Memory.read_cons, if_neg ha, if_neg (key ▸ ha)] at this
      rw [htail, Prod.ext key hv]

end Sys2Proof.Machine
end

