-- ==== Sys2Proof/Laws/State.lean ====
section
/-! SUPPORT. One lemma per field per update of `State`, true by `rfl`, so that no proof unfolds a record update; and the
color map read after it is written. -/

namespace Sys2Proof.Machine

/-! ### writeCmap -/

@[simp] theorem State.writeCmap_cmap (s : State) (i v : BitVec 4) : (s.writeCmap i v).cmap = s.cmap.set i.toNat v i.isLt := rfl
@[simp] theorem State.writeCmap_width (s : State) (i v : BitVec 4) : (s.writeCmap i v).width = s.width := rfl
@[simp] theorem State.writeCmap_height (s : State) (i v : BitVec 4) : (s.writeCmap i v).height = s.height := rfl
@[simp] theorem State.writeCmap_frame (s : State) (i v : BitVec 4) : (s.writeCmap i v).frame = s.frame := rfl
@[simp] theorem State.writeCmap_plane (s : State) (i v : BitVec 4) : (s.writeCmap i v).plane = s.plane := rfl
@[simp] theorem State.writeCmap_incoming (s : State) (i v : BitVec 4) : (s.writeCmap i v).incoming = s.incoming := rfl
@[simp] theorem State.writeCmap_responses (s : State) (i v : BitVec 4) : (s.writeCmap i v).responses = s.responses := rfl

/-! ### writeCmapIdentity -/

@[simp] theorem State.writeCmapIdentity_cmap (s : State) : s.writeCmapIdentity.cmap = identityCmap := rfl
@[simp] theorem State.writeCmapIdentity_width (s : State) : s.writeCmapIdentity.width = s.width := rfl
@[simp] theorem State.writeCmapIdentity_height (s : State) : s.writeCmapIdentity.height = s.height := rfl
@[simp] theorem State.writeCmapIdentity_frame (s : State) : s.writeCmapIdentity.frame = s.frame := rfl
@[simp] theorem State.writeCmapIdentity_plane (s : State) : s.writeCmapIdentity.plane = s.plane := rfl
@[simp] theorem State.writeCmapIdentity_incoming (s : State) : s.writeCmapIdentity.incoming = s.incoming := rfl
@[simp] theorem State.writeCmapIdentity_responses (s : State) : s.writeCmapIdentity.responses = s.responses := rfl

/-! ### writeWidth -/

@[simp] theorem State.writeWidth_cmap (s : State) (v : BitVec 16) : (s.writeWidth v).cmap = s.cmap := rfl
@[simp] theorem State.writeWidth_width (s : State) (v : BitVec 16) : (s.writeWidth v).width = v := rfl
@[simp] theorem State.writeWidth_height (s : State) (v : BitVec 16) : (s.writeWidth v).height = s.height := rfl
@[simp] theorem State.writeWidth_frame (s : State) (v : BitVec 16) : (s.writeWidth v).frame = s.frame := rfl
@[simp] theorem State.writeWidth_plane (s : State) (v : BitVec 16) : (s.writeWidth v).plane = s.plane := rfl
@[simp] theorem State.writeWidth_incoming (s : State) (v : BitVec 16) : (s.writeWidth v).incoming = s.incoming := rfl
@[simp] theorem State.writeWidth_responses (s : State) (v : BitVec 16) : (s.writeWidth v).responses = s.responses := rfl

/-! ### writeHeight -/

@[simp] theorem State.writeHeight_cmap (s : State) (v : BitVec 16) : (s.writeHeight v).cmap = s.cmap := rfl
@[simp] theorem State.writeHeight_width (s : State) (v : BitVec 16) : (s.writeHeight v).width = s.width := rfl
@[simp] theorem State.writeHeight_height (s : State) (v : BitVec 16) : (s.writeHeight v).height = v := rfl
@[simp] theorem State.writeHeight_frame (s : State) (v : BitVec 16) : (s.writeHeight v).frame = s.frame := rfl
@[simp] theorem State.writeHeight_plane (s : State) (v : BitVec 16) : (s.writeHeight v).plane = s.plane := rfl
@[simp] theorem State.writeHeight_incoming (s : State) (v : BitVec 16) : (s.writeHeight v).incoming = s.incoming := rfl
@[simp] theorem State.writeHeight_responses (s : State) (v : BitVec 16) : (s.writeHeight v).responses = s.responses := rfl

/-! ### withFrame -/

@[simp] theorem State.withFrame_cmap (s : State) (m : Memory) : (s.withFrame m).cmap = s.cmap := rfl
@[simp] theorem State.withFrame_width (s : State) (m : Memory) : (s.withFrame m).width = s.width := rfl
@[simp] theorem State.withFrame_height (s : State) (m : Memory) : (s.withFrame m).height = s.height := rfl
@[simp] theorem State.withFrame_frame (s : State) (m : Memory) : (s.withFrame m).frame = m := rfl
@[simp] theorem State.withFrame_plane (s : State) (m : Memory) : (s.withFrame m).plane = s.plane := rfl
@[simp] theorem State.withFrame_incoming (s : State) (m : Memory) : (s.withFrame m).incoming = s.incoming := rfl
@[simp] theorem State.withFrame_responses (s : State) (m : Memory) : (s.withFrame m).responses = s.responses := rfl

/-! ### withPlane -/

@[simp] theorem State.withPlane_cmap (s : State) (m : Memory) : (s.withPlane m).cmap = s.cmap := rfl
@[simp] theorem State.withPlane_width (s : State) (m : Memory) : (s.withPlane m).width = s.width := rfl
@[simp] theorem State.withPlane_height (s : State) (m : Memory) : (s.withPlane m).height = s.height := rfl
@[simp] theorem State.withPlane_frame (s : State) (m : Memory) : (s.withPlane m).frame = s.frame := rfl
@[simp] theorem State.withPlane_plane (s : State) (m : Memory) : (s.withPlane m).plane = m := rfl
@[simp] theorem State.withPlane_incoming (s : State) (m : Memory) : (s.withPlane m).incoming = s.incoming := rfl
@[simp] theorem State.withPlane_responses (s : State) (m : Memory) : (s.withPlane m).responses = s.responses := rfl

/-! ### withIncoming -/

@[simp] theorem State.withIncoming_cmap (s : State) (l : List HostInput) : (s.withIncoming l).cmap = s.cmap := rfl
@[simp] theorem State.withIncoming_width (s : State) (l : List HostInput) : (s.withIncoming l).width = s.width := rfl
@[simp] theorem State.withIncoming_height (s : State) (l : List HostInput) : (s.withIncoming l).height = s.height := rfl
@[simp] theorem State.withIncoming_frame (s : State) (l : List HostInput) : (s.withIncoming l).frame = s.frame := rfl
@[simp] theorem State.withIncoming_plane (s : State) (l : List HostInput) : (s.withIncoming l).plane = s.plane := rfl
@[simp] theorem State.withIncoming_incoming (s : State) (l : List HostInput) : (s.withIncoming l).incoming = l := rfl
@[simp] theorem State.withIncoming_responses (s : State) (l : List HostInput) : (s.withIncoming l).responses = s.responses := rfl

/-! ### respond -/

@[simp] theorem State.respond_cmap (s : State) (st : Status) (d : BitVec 16) : (s.respond st d).cmap = s.cmap := rfl
@[simp] theorem State.respond_width (s : State) (st : Status) (d : BitVec 16) : (s.respond st d).width = s.width := rfl
@[simp] theorem State.respond_height (s : State) (st : Status) (d : BitVec 16) : (s.respond st d).height = s.height := rfl
@[simp] theorem State.respond_frame (s : State) (st : Status) (d : BitVec 16) : (s.respond st d).frame = s.frame := rfl
@[simp] theorem State.respond_plane (s : State) (st : Status) (d : BitVec 16) : (s.respond st d).plane = s.plane := rfl
@[simp] theorem State.respond_incoming (s : State) (st : Status) (d : BitVec 16) : (s.respond st d).incoming = s.incoming := rfl
@[simp] theorem State.respond_responses (s : State) (st : Status) (d : BitVec 16) : (s.respond st d).responses = s.responses ++ [responseWord st d] := rfl

/-! ### applyReset (70_reset_and_hazards.md R160) -/

@[simp] theorem State.applyReset_cmap (s : State) : s.applyReset.cmap = identityCmap := rfl
@[simp] theorem State.applyReset_width (s : State) : s.applyReset.width = 128#16 := rfl
@[simp] theorem State.applyReset_height (s : State) : s.applyReset.height = 32#16 := rfl
@[simp] theorem State.applyReset_frame (s : State) : s.applyReset.frame = [] := rfl
@[simp] theorem State.applyReset_plane (s : State) : s.applyReset.plane = [] := rfl
@[simp] theorem State.applyReset_incoming (s : State) : s.applyReset.incoming = s.incoming := rfl
@[simp] theorem State.applyReset_responses (s : State) : s.applyReset.responses = s.responses := rfl

/-! ### the reset state (70_reset_and_hazards.md R160) -/

@[simp] theorem State.reset_cmap : State.reset.cmap = identityCmap := rfl
@[simp] theorem State.reset_width : State.reset.width = 128#16 := rfl
@[simp] theorem State.reset_height : State.reset.height = 32#16 := rfl
@[simp] theorem State.reset_frame : State.reset.frame = [] := rfl
@[simp] theorem State.reset_plane : State.reset.plane = [] := rfl
@[simp] theorem State.reset_incoming : State.reset.incoming = [] := rfl
@[simp] theorem State.reset_responses : State.reset.responses = [] := rfl

/-! ### the color map -/

@[simp] theorem State.readCmap_writeCmap_same (s : State) (i v : BitVec 4) : (s.writeCmap i v).readCmap i = v := by
  simp [State.readCmap]

theorem State.readCmap_writeCmap_other (s : State) {i j : BitVec 4} (v : BitVec 4) (h : j ≠ i) :
    (s.writeCmap i v).readCmap j = s.readCmap j := by
  have : i.toNat ≠ j.toNat := fun e => h (BitVec.eq_of_toNat_eq e.symm)
  simp [State.readCmap, this]

@[simp] theorem State.readCmap_writeCmapIdentity (s : State) (i : BitVec 4) : s.writeCmapIdentity.readCmap i = i := by
  simp [State.readCmap, identityCmap]

@[simp] theorem State.readCmap_applyReset (s : State) (i : BitVec 4) : s.applyReset.readCmap i = i := by
  simp [State.readCmap, identityCmap]

@[simp] theorem State.readCmap_respond (s : State) (st : Status) (d : BitVec 16) (i : BitVec 4) :
    (s.respond st d).readCmap i = s.readCmap i := rfl

@[simp] theorem State.readCmap_withFrame (s : State) (m : Memory) (i : BitVec 4) :
    (s.withFrame m).readCmap i = s.readCmap i := rfl

@[simp] theorem State.readCmap_withPlane (s : State) (m : Memory) (i : BitVec 4) :
    (s.withPlane m).readCmap i = s.readCmap i := rfl

@[simp] theorem State.readCmap_withIncoming (s : State) (l : List HostInput) (i : BitVec 4) :
    (s.withIncoming l).readCmap i = s.readCmap i := rfl

end Sys2Proof.Machine
end

