-- ==== Sys2Proof/Laws/Ops.lean ====
section
/-! SUPPORT. For each shared operation, what it can do, said once: how a command ends, when a byte reads, what a
selector names, how the planes are zeroed and lit, and the three kinds of step. -/

namespace Sys2Proof.Machine

/-! ### How a command ends -/

@[simp] theorem finish_next {s t : State} {d : BitVec 16} : finish s d = .next t ↔ t = s.respond .ok d := by
  simp [finish, eq_comm]

@[simp] theorem reject_next {s t : State} {code : Status} : reject s code = .next t ↔ t = s.respond code 0#16 := by
  simp [reject, eq_comm]

@[simp] theorem finish_ne_fault {s : State} {d : BitVec 16} {f : Fault} : finish s d ≠ .fault f := by
  simp [finish]

@[simp] theorem reject_ne_fault {s : State} {code : Status} {f : Fault} : reject s code ≠ .fault f := by
  simp [reject]

@[simp] theorem finish_ne_refused {s : State} {d : BitVec 16} {r : Refusal} : finish s d ≠ .refused r := by
  simp [finish]

@[simp] theorem reject_ne_refused {s : State} {code : Status} {r : Refusal} : reject s code ≠ .refused r := by
  simp [reject]

@[simp] theorem place_respond (s : State) (st : Status) (d : BitVec 16) : (s.respond st d).place = s.place + 1 := by
  simp [State.place]

/-- STATUS of a response word is the status's code (30_encoding.md R70). -/
@[simp] theorem responseWord_status (st : Status) (d : BitVec 16) :
    (responseWord st d).extractLsb' 28 4 = st.code := by
  ext i hi
  simp [responseWord, atBit]
  grind

/-- DATA of a response word (30_encoding.md R70). -/
@[simp] theorem responseWord_data (st : Status) (d : BitVec 16) : (responseWord st d).extractLsb' 0 16 = d := by
  ext i hi
  simp [responseWord, atBit]
  grind

/-- Bits [27:16] of a response word are zero (30_encoding.md R70). -/
@[simp] theorem responseWord_zeros (st : Status) (d : BitVec 16) : (responseWord st d).extractLsb' 16 12 = 0#12 := by
  ext i hi
  simp [responseWord, atBit]
  grind

/-- Every status's code is one that is produced (60_exceptions.md R140). -/
theorem Status.code_le (st : Status) : st.code.toNat ≤ 6 := by cases st <;> decide

@[simp] theorem Status.code_eq_zero {st : Status} : st.code = 0#4 ↔ st = .ok := by cases st <;> decide

/-- The word of a completed command has the response format. -/
theorem responseFormat_ok (d : BitVec 16) : responseFormat (responseWord .ok d) :=
  ⟨by simp, by simp [Status.code], by simp⟩

/-- The word of a rejected command has the response format. -/
theorem responseFormat_reject (st : Status) : responseFormat (responseWord st 0#16) :=
  ⟨by simp, by simpa using st.code_le, by simp⟩

/-! ### One byte -/

@[simp] theorem memReadFrame_ok {m : Memory} {a : Nat} {v : Byte} : memReadFrame m a = .ok v ↔ m.read a = some v := by
  unfold memReadFrame; cases m.read a <;> simp [eq_comm]

@[simp] theorem memReadFrame_error {m : Memory} {a : Nat} {f : Fault} :
    memReadFrame m a = .error f ↔ m.read a = none ∧ f = .unwrittenFrame a := by
  unfold memReadFrame; cases m.read a <;> simp [eq_comm]

@[simp] theorem memReadPlane_ok {m : Memory} {a : Nat} {v : Byte} : memReadPlane m a = .ok v ↔ m.read a = some v := by
  unfold memReadPlane; cases m.read a <;> simp [eq_comm]

@[simp] theorem memReadPlane_error {m : Memory} {a : Nat} {f : Fault} :
    memReadPlane m a = .error f ↔ m.read a = none ∧ f = .unwrittenPlane a := by
  unfold memReadPlane; cases m.read a <;> simp [eq_comm]

/-! ### The encoder's steps -/

/-- Zeroing the planes: the first `count` bytes read 0, the others as before. -/
theorem zeroPlanes_read (m : Memory) (count a : Nat) :
    (zeroPlanes m count).read a = if a < count then some 0#8 else m.read a := by
  unfold zeroPlanes
  induction count with
  | zero => simp
  | succ n ih =>
    rw [List.range_succ, List.foldl_append]
    simp only [List.foldl_cons, List.foldl_nil, Memory.read_write, ih]
    split
    · rename_i h; simp [← h]
    · rename_i h
      by_cases h2 : a < n
      · simp [h2, Nat.lt_succ_of_lt h2]
      · simp [h2, show ¬ a < n + 1 by omega]

/-- Zeroing the planes keeps the canonical form. -/
theorem zeroPlanes_wf {m : Memory} (count : Nat) (h : m.wf) : (zeroPlanes m count).wf := by
  unfold zeroPlanes
  induction count with
  | zero => simpa using h
  | succ n ih =>
    rw [List.range_succ, List.foldl_append]
    exact Memory.write_wf _ _ ih

/-- Zeroing the planes keeps the memory within its space. -/
theorem zeroPlanes_within {m : Memory} {size count : Nat} (hc : count ≤ size) (h : m.within size) :
    (zeroPlanes m count).within size := by
  unfold zeroPlanes
  induction count with
  | zero => simpa using h
  | succ n ih =>
    rw [List.range_succ, List.foldl_append]
    exact Memory.write_within _ (by omega) (ih (by omega))

/-- Everything lighting one plane can do: nothing, where the code's bit is 0; else set one bit of one written byte. -/
theorem lightPlane_ok {w p row col : Nat} {code : BitVec 4} {k : Nat} {m m' : Memory}
    (h : lightPlane w p row col code k m = .ok m') :
    (code.getLsbD k = false ∧ m' = m) ∨
    (code.getLsbD k = true ∧ ∃ b, m.read (planeAddr w p k row col) = some b ∧
      m' = m.write (planeAddr w p k row col) (b ||| (1#8 <<< (col % 8)))) := by
  unfold lightPlane at h
  split at h
  · rename_i hk
    split at h
    · cases h
    · rename_i b hb
      exact .inr ⟨hk, b, memReadPlane_ok.mp hb, by cases h; rfl⟩
  · rename_i hk
    exact .inl ⟨by simpa using hk, by cases h; rfl⟩

/-- Lighting one plane stops only at a plane byte that was never written. -/
theorem lightPlane_error {w p row col : Nat} {code : BitVec 4} {k : Nat} {m : Memory} {f : Fault}
    (h : lightPlane w p row col code k m = .error f) :
    code.getLsbD k = true ∧ m.read (planeAddr w p k row col) = none ∧ f = .unwrittenPlane (planeAddr w p k row col) := by
  unfold lightPlane at h
  split at h
  · rename_i hk
    split at h
    · rename_i g hg
      cases h
      exact ⟨hk, memReadPlane_error.mp hg⟩
    · cases h
  · cases h

/-- Everything one pixel can do, if it goes on: its byte is written, and it is skipped or its planes are lit. -/
theorem encodePixel_ok {c : Config} {u : Bool} {s : State} {row col : Nat} {m m' : Memory}
    (h : encodePixel c u s row col m = .ok m') :
    ∃ p, s.frame.read (frameAddr s.width.toNat row col) = some p ∧
      ((dot p = 0#4 ∧ m' = m) ∨
       (dot p ≠ 0#4 ∧
        lightPlanes s.width.toNat s.planeSize row col (finalCode c u s (dot p)) [0, 1, 2, 3] m = .ok m')) := by
  unfold encodePixel at h
  split at h
  · cases h
  · rename_i p hp
    refine ⟨p, memReadFrame_ok.mp hp, ?_⟩
    split at h
    · rename_i h0
      exact .inl ⟨h0, by cases h; rfl⟩
    · rename_i h0
      exact .inr ⟨h0, h⟩

/-- Lighting one plane keeps the canonical form. -/
theorem lightPlane_wf {w p row col : Nat} {code : BitVec 4} {k : Nat} {m m' : Memory}
    (h : lightPlane w p row col code k m = .ok m') (hm : m.wf) : m'.wf := by
  rcases lightPlane_ok h with ⟨-, rfl⟩ | ⟨-, b, -, rfl⟩
  · exact hm
  · exact Memory.write_wf _ _ hm

/-- Everything lighting a list of planes can do: the first, then the others. -/
theorem lightPlanes_cons_ok {w p row col : Nat} {code : BitVec 4} {k : Nat} {ks : List Nat} {m m' : Memory}
    (h : lightPlanes w p row col code (k :: ks) m = .ok m') :
    ∃ m₁, lightPlane w p row col code k m = .ok m₁ ∧ lightPlanes w p row col code ks m₁ = .ok m' := by
  simp only [lightPlanes] at h
  split at h
  · cases h
  · rename_i m₁ h₁
    exact ⟨m₁, h₁, h⟩

/-- Lighting a list of planes keeps the canonical form. -/
theorem lightPlanes_wf {w p row col : Nat} {code : BitVec 4} {ks : List Nat} {m m' : Memory}
    (h : lightPlanes w p row col code ks m = .ok m') (hm : m.wf) : m'.wf := by
  induction ks generalizing m with
  | nil => cases h; exact hm
  | cons k ks ih =>
    obtain ⟨m₁, h₁, h₂⟩ := lightPlanes_cons_ok h
    exact ih h₂ (lightPlane_wf h₁ hm)

/-- One pixel keeps the canonical form. -/
theorem encodePixel_wf {c : Config} {u : Bool} {s : State} {row col : Nat} {m m' : Memory}
    (h : encodePixel c u s row col m = .ok m') (hm : m.wf) : m'.wf := by
  obtain ⟨p, -, ⟨-, rfl⟩ | ⟨-, hl⟩⟩ := encodePixel_ok h
  · exact hm
  · exact lightPlanes_wf hl hm

/-- Everything a list of pixels can do: the first, then the others. -/
theorem encodePixels_cons_ok {c : Config} {u : Bool} {s : State} {row col : Nat} {rest : List (Nat × Nat)}
    {m m' : Memory} (h : encodePixels c u s ((row, col) :: rest) m = .ok m') :
    ∃ m₁, encodePixel c u s row col m = .ok m₁ ∧ encodePixels c u s rest m₁ = .ok m' := by
  simp only [encodePixels] at h
  split at h
  · cases h
  · rename_i m₁ h₁
    exact ⟨m₁, h₁, h⟩

/-- A list of pixels keeps the canonical form. -/
theorem encodePixels_wf {c : Config} {u : Bool} {s : State} {l : List (Nat × Nat)} {m m' : Memory}
    (h : encodePixels c u s l m = .ok m') (hm : m.wf) : m'.wf := by
  induction l generalizing m with
  | nil => cases h; exact hm
  | cons x l ih =>
    obtain ⟨m₁, h₁, h₂⟩ := encodePixels_cons_ok h
    exact ih h₂ (encodePixel_wf h₁ hm)

/-- `ENCODE`'s passes keep PLANE's canonical form. -/
theorem encodedPlane_wf {c : Config} {u : Bool} {s : State} {m : Memory} (h : encodedPlane c u s = .ok m)
    (hs : s.plane.wf) : m.wf :=
  encodePixels_wf h (zeroPlanes_wf _ hs)

/-- The pixels visited are those of the frame (20_memory.md R43). -/
theorem mem_pixelOrder {width height : Nat} {x : Nat × Nat} :
    x ∈ pixelOrder width height ↔ x.1 < height ∧ x.2 < width := by
  obtain ⟨row, col⟩ := x
  simp [pixelOrder]

/-- Everything `ENCODE` can do (45_subframe_encoder.md R106): two rejections, a fault of its passes, or new planes. -/
theorem encodeFrame_cases (c : Config) (u : Bool) (nsub : BitVec 4) (s : State) :
    (nsub ≠ 4#4 ∧ encodeFrame c u nsub s = reject s .badSubframeCount) ∨
    (nsub = 4#4 ∧ ¬ fitsMemories c s ∧ encodeFrame c u nsub s = reject s .frameExceedsMemory) ∨
    (nsub = 4#4 ∧ fitsMemories c s ∧ ∃ f, encodedPlane c u s = .error f ∧ encodeFrame c u nsub s = .fault f) ∨
    (nsub = 4#4 ∧ fitsMemories c s ∧ ∃ m, encodedPlane c u s = .ok m ∧
      encodeFrame c u nsub s = finish (s.withPlane m) 0#16) := by
  unfold encodeFrame
  by_cases hn : nsub = 4#4
  · by_cases hf : fitsMemories c s
    · cases he : encodedPlane c u s with
      | error f => exact .inr (.inr (.inl ⟨hn, hf, f, rfl, by simp [hn, hf]⟩))
      | ok m => exact .inr (.inr (.inr ⟨hn, hf, m, rfl, by simp [hn, hf]⟩))
    · exact .inr (.inl ⟨hn, hf, by rw [if_neg (by simp [hn]), if_pos hf]⟩)
  · exact .inl ⟨hn, by rw [if_pos hn]⟩

/-! ### The command port -/

/-- Everything a command word can do (30_encoding.md R68): run its command, or be rejected. -/
theorem runWord_cases (w : Word) (s : State) :
    (∃ i, decode w = .ok i ∧ runWord w s = exec i s) ∨
    (∃ e, decode w = .error e ∧ runWord w s = reject s (statusOfDecodeError e)) := by
  unfold runWord
  cases decode w with
  | ok i => exact .inl ⟨i, rfl, rfl⟩
  | error e => exact .inr ⟨e, rfl, rfl⟩

/-- Everything a step can do: idle, take a command word, take the reset. -/
theorem step_cases (s : State) :
    (s.incoming = [] ∧ step s = .next s) ∨
    (∃ w rest, s.incoming = .command w :: rest ∧ step s = runWord w (s.withIncoming rest)) ∨
    (∃ rest, s.incoming = .reset :: rest ∧ step s = .next (s.withIncoming rest).applyReset) := by
  unfold step portStep
  cases hs : s.incoming with
  | nil => exact .inl ⟨rfl, rfl⟩
  | cons x rest =>
    cases x with
    | command w => exact .inr (.inl ⟨w, rest, rfl, rfl⟩)
    | reset => exact .inr (.inr ⟨rest, rfl, rfl⟩)

end Sys2Proof.Machine
end

