-- ==== Sys2Proof/Laws/PerInstr.lean ====
section
/-! SUPPORT. Statements made per command: the word the encoder writes is legal for the command's row of the opcode map
(30_encoding.md R64), so its reserved bits are zero. -/

namespace Sys2Proof.Laws.MatchesRow

/-- The encoded word matches the command's row: `(w & mask) == match` (30_encoding.md R64). -/
def Statement (i : Instr) : Prop := Sys2Proof.encode i &&& i.row.mask = i.row.pattern

/-- Two words are equal when their 32 bits are. -/
theorem eq_of_bits {v w : Word} (h : ∀ k : Fin 32, v.getLsbD k = w.getLsbD k) : v = w :=
  BitVec.eq_of_getLsbD_eq fun k hk => h ⟨k, hk⟩

theorem nop : Statement .nop := by unfold Statement; decide

theorem blendAlpha (src dst : BitVec 8) : Statement (.blendAlpha src dst) := by
  refine eq_of_bits fun k => ?_
  fin_cases k <;> simp [Sys2Proof.encode, Instr.row, atBit]

theorem blendAlphaBoth (src dst : BitVec 8) : Statement (.blendAlphaBoth src dst) := by
  refine eq_of_bits fun k => ?_
  fin_cases k <;> simp [Sys2Proof.encode, Instr.row, atBit]

theorem setCmap (idx val : BitVec 4) : Statement (.setCmap idx val) := by
  refine eq_of_bits fun k => ?_
  fin_cases k <;> simp [Sys2Proof.encode, Instr.row, atBit]

theorem resetCmap : Statement .resetCmap := by unfold Statement; decide

theorem setWidth (imm : BitVec 16) : Statement (.setWidth imm) := by
  refine eq_of_bits fun k => ?_
  fin_cases k <;> simp [Sys2Proof.encode, Instr.row, atBit]

theorem setHeight (imm : BitVec 16) : Statement (.setHeight imm) := by
  refine eq_of_bits fun k => ?_
  fin_cases k <;> simp [Sys2Proof.encode, Instr.row, atBit]

theorem readCfg (sel : BitVec 8) : Statement (.readCfg sel) := by
  refine eq_of_bits fun k => ?_
  fin_cases k <;> simp [Sys2Proof.encode, Instr.row, atBit]

theorem encode (useCmap : Bool) (nsub : BitVec 4) : Statement (.encode useCmap nsub) := by
  refine eq_of_bits fun k => ?_
  fin_cases k <;> simp [Sys2Proof.encode, Instr.row, atBit]

theorem frameWr (addr : BitVec 20) (data : BitVec 8) : Statement (.frameWr addr data) := by
  refine eq_of_bits fun k => ?_
  fin_cases k <;> simp [Sys2Proof.encode, Instr.row, atBit]

theorem frameRd (addr : BitVec 20) : Statement (.frameRd addr) := by
  refine eq_of_bits fun k => ?_
  fin_cases k <;> simp [Sys2Proof.encode, Instr.row, atBit]

theorem planeWr (addr : BitVec 20) (data : BitVec 8) : Statement (.planeWr addr data) := by
  refine eq_of_bits fun k => ?_
  fin_cases k <;> simp [Sys2Proof.encode, Instr.row, atBit]

theorem planeRd (addr : BitVec 20) : Statement (.planeRd addr) := by
  refine eq_of_bits fun k => ?_
  fin_cases k <;> simp [Sys2Proof.encode, Instr.row, atBit]

end Sys2Proof.Laws.MatchesRow
end

