-- ==== Sys2Proof/Tests/Slice0.lean ====
section
/-! SUPPORT. Tests: the assembler's checks refuse what does not fit; every command is decoded from a word written out
from 30_encoding.md R62; one step of each command on a small state, with the values of spec/95_test_vectors.md (or of
the rule named); and a witness for every statement that has hypotheses. -/

namespace Sys2Proof.Tests

open Sys2Proof Sys2Proof.Machine

/-! ### Helpers -/

/-- A memory from numbers. -/
def cells (l : List (Nat × Nat)) : Memory := l.map fun x => (x.1, BitVec.ofNat 8 x.2)

/-- A state with the given dimensions and memories, otherwise as after reset. -/
def small (w h : Nat) (frame plane : List (Nat × Nat)) : State :=
  { State.reset with width := BitVec.ofNat 16 w, height := BitVec.ofNat 16 h, frame := cells frame, plane := cells plane }

/-- The result is a next state of which `p` holds. -/
def nextHas (r : Result) (p : State → Bool) : Bool :=
  match r with
  | .next t => p t
  | .fault _ => false
  | .refused _ => false

/-- The result is this fault. -/
def faultIs (r : Result) (f : Fault) : Bool :=
  match r with
  | .next _ => false
  | .fault g => g == f
  | .refused _ => false

/-- The last response word after one word sent to `s`. -/
def answers (s : State) (w r : Nat) : Bool :=
  nextHas (step (s.withFetchWord 32 w)) fun t => t.responses.getLast? == some (BitVec.ofNat 32 r)

/-- A test's bit order, PRESUMED (log entry 12): the spec's suggested default π (10_state.md R24), used in tests marked
"default π" only. -/
def suggestedOrder : BitOrder where
  toFun := ![1, 3, 0, 2]
  invFun := ![2, 0, 3, 1]
  left_inv := by decide
  right_inv := by decide

/-- The block with the suggested default π, for tests only (log entry 12). -/
def suggested : Config := { Config.block with bitOrder := suggestedOrder }

/-! ### Well-formed lines: an ill-formed one for each check is refused (30_encoding.md R71, R72) -/

theorem test_illformed_lines_are_refused :
    (([.alpha 256 0, .alpha 0 256, .alphaboth 256 0, .alphaboth 0 256, .setcmap 16 0, .setcmap 0 16, .setw 65536,
      .seth 65536, .rdcfg 256, .encode 16 false, .fwr 1048576 0, .fwr 0 256, .frd 1048576, .pwr 1048576 0, .pwr 0 256,
      .prd 1048576] : List Asm).all fun a => !a.wellFormed && a.assemble.isNone) = true := by decide

theorem test_illformed_pseudos_are_refused :
    (([.loadcmap [0], .fwrs 0 [], .lutrd 65536, .fwrs 1048575 [0, 0]] : List Pseudo).all
      fun p => p.assemble.isNone) = true := by decide

theorem test_largest_operands_are_accepted :
    (([.alpha 255 255, .alphaboth 255 255, .setcmap 15 15, .setw 65535, .seth 65535, .rdcfg 255, .encode 15 true,
      .fwr 1048575 255, .frd 1048575, .pwr 1048575 255, .prd 1048575] : List Asm).all
      fun a => a.wellFormed && a.assemble.isSome) = true := by decide

/-- 95_test_vectors.md L3: text and word. -/
theorem test_text_assembles :
    assembleText "setcmap 0xF, 0".toList = some [0x300000F0#32] ∧
    assembleText "encode 4, cmap".toList = some [0x80000014#32] ∧
    assembleText "fwr 0xC, 0x03".toList = some [0x90000C03#32] ∧
    assembleText "setdims 128, 32".toList = some [0x50000080#32, 0x60000020#32] ∧
    assembleText "frd 0x100000".toList = none ∧ assembleText "frd 0xZ".toList = none := by decide

/-! ### Decoding: words written out from 30_encoding.md R62 -/

theorem test_decode_nop : decode 0b00000000000000000000000000000000#32 = .ok .nop := by decide
theorem test_decode_blendAlpha : decode 0b00010000000000000001111101111010#32 = .ok (.blendAlpha 0x1F#8 0x7A#8) := by decide
theorem test_decode_blendAlphaBoth :
    decode 0b00100000000000000001111101111010#32 = .ok (.blendAlphaBoth 0x1F#8 0x7A#8) := by decide
theorem test_decode_setCmap : decode 0b00110000000000000000000000111100#32 = .ok (.setCmap 3#4 12#4) := by decide
theorem test_decode_resetCmap : decode 0b01000000000000000000000000000000#32 = .ok .resetCmap := by decide
theorem test_decode_setWidth : decode 0b01010000000000001000000000000001#32 = .ok (.setWidth 0x8001#16) := by decide
theorem test_decode_setHeight : decode 0b01100000000000001000000000000001#32 = .ok (.setHeight 0x8001#16) := by decide
theorem test_decode_readCfg : decode 0b01110000000000000000000000100101#32 = .ok (.readCfg 0x25#8) := by decide
theorem test_decode_encode : decode 0b10000000000000000000000000010100#32 = .ok (.encode true 4#4) := by decide
theorem test_decode_frameWr : decode 0b10011000000000000000000110101011#32 = .ok (.frameWr 0x80001#20 0xAB#8) := by decide
theorem test_decode_frameRd : decode 0b10101000000000000000000100000000#32 = .ok (.frameRd 0x80001#20) := by decide
theorem test_decode_planeWr : decode 0b10111000000000000000000110101011#32 = .ok (.planeWr 0x80001#20 0xAB#8) := by decide
theorem test_decode_planeRd : decode 0b11001000000000000000000100000000#32 = .ok (.planeRd 0x80001#20) := by decide
theorem test_decodeTableWord : decodeTableWord 32 0x80000014 = some (.encode true 4#4) ∧ decodeTableWord 32 0xD0000000 = none := by
  decide

/-- 95_test_vectors.md L2.5. -/
theorem test_rejected_words :
    ([(0x0FFFFFFF, 0x20000000), (0xD0000000, 0x10000000), (0xE0000000, 0x10000000), (0xF1234567, 0x10000000),
      (0x10010000, 0x20000000), (0x20FFFF00, 0x20000000), (0x30000100, 0x20000000), (0x4000000F, 0x20000000),
      (0x7000FF00, 0x20000000), (0x80000044, 0x20000000), (0x80000015, 0x40000000), (0xA00000FF, 0x20000000),
      (0xC0000001, 0x20000000), (0xA0100000, 0x60000000), (0xB0080000, 0x60000000)].all
      fun x => answers State.reset x.1 x.2) = true := by decide

/-! ### One step of each command -/

theorem test_nop : answers State.reset 0x00000000 0x00000000 = true := by decide
/-- 95_test_vectors.md L2.1: an E64 pair, reached by forcing the destination's alpha. -/
theorem test_blendAlpha_e64 : answers State.reset 0x10001707 0x00000006 = true := by decide +kernel
/-- 95_test_vectors.md L1.2. -/
theorem test_blendAlpha_source_example : answers State.reset 0x10001F00 0x00000001 = true := by decide +kernel
/-- 95_test_vectors.md L2.1: an E64 pair. -/
theorem test_blendAlphaBoth_e64 : answers State.reset 0x200056FF 0x000000FB = true := by decide +kernel
theorem test_blendAlphaBoth_plain : answers State.reset 0x20005AC3 0x000000C4 = true := by decide +kernel
/-- 95_test_vectors.md L2.1: the other settings at an E64 pair and at an EX87 pair. -/
theorem test_settings :
    lut .exact (lutIndex 0x56#8 0xFF#8) = 0xFC#8 ∧ lut .binary32 (lutIndex 0x56#8 0xFF#8) = 0xFC#8 ∧
    lut .x87 (lutIndex 0xAD#8 0xFA#8) = 0xFB#8 ∧ lut .binary64 (lutIndex 0x5A#8 0xFA#8) = 0xFA#8 ∧
    lut .x87 (lutIndex 0x5A#8 0xFA#8) = 0xF9#8 := by decide +kernel
/-- 45_subframe_encoder.md R101's example. -/
theorem test_setCmap :
    nextHas (execSetCmap 3#4 12#4 State.reset) (fun t => t.readCmap 3#4 == 12#4 && t.readCmap 4#4 == 4#4) = true := by
  decide
theorem test_resetCmap :
    nextHas (execResetCmap (State.reset.writeCmap 3#4 12#4)) (fun t => t.readCmap 3#4 == 3#4) = true := by decide
theorem test_setWidth : nextHas (execSetWidth 0#16 State.reset) (fun t => t.width == 0#16 && t.height == 32#16) = true := by
  decide
theorem test_setHeight :
    nextHas (execSetHeight 0xFFFF#16 State.reset) (fun t => t.height == 0xFFFF#16 && t.width == 128#16) = true := by decide
/-- 95_test_vectors.md L2.2. -/
theorem test_readCfg :
    ([(0x70000005, 0x00000005), (0x70000010, 0x00000080), (0x70000011, 0x00000020), (0x70000012, 0x30000000),
      (0x7000001F, 0x30000000), (0x70000030, 0x30000000), (0x700000FF, 0x30000000)].all
      fun x => answers State.reset x.1 x.2) = true := by decide
/-- 95_test_vectors.md L2.2, default π. -/
theorem test_readCfg_hwmap :
    nextHas (readCfg suggested 0x25#8 State.reset) (fun t => t.responses == [0x00000003#32]) = true := by decide
/-- 95_test_vectors.md L2.3, default π: the 8 x 1 frame. -/
theorem test_encode :
    nextHas (encodeFrame suggested false 4#4
      (small 8 1 [(0, 0x0F), (1, 0), (2, 1), (3, 0), (4, 0), (5, 8), (6, 0), (7, 0xF2)] []))
      (fun t => t.plane == cells [(0, 0x01), (1, 0x05), (2, 0x21), (3, 0x81)]) = true := by decide +kernel
/-- 95_test_vectors.md P4, default π: at width 12 two pixels share a bit, and PLANE from 4P on is kept. -/
theorem test_encode_shared_bit :
    nextHas (encodeFrame suggested true 4#4
      (small 12 2 ((List.range 24).map fun a => (a, if a = 8 then 1 else if a = 12 then 3 else if a = 23 then 15 else 0))
        [(12, 0x5A)]))
      (fun t => t.plane == cells [(0, 0), (1, 0), (2, 8), (3, 0), (4, 1), (5, 8), (6, 0), (7, 0), (8, 8), (9, 0),
        (10, 1), (11, 8), (12, 0x5A)]) = true := by decide +kernel
/-- 95_test_vectors.md L2.4. -/
theorem test_frameWr :
    nextHas (execFrameWr 0xFFF#20 0xAB#8 (small 1 1 [(0, 1)] [])) (fun t => t.frame == cells [(0, 1), (0xFFF, 0xAB)]) = true := by
  decide
theorem test_frameWr_out_of_range : answers State.reset 0x90100000 0x60000000 = true := by decide
theorem test_frameRd : answers (small 1 1 [(0xFFF, 0xAB)] []) 0xA00FFF00 0x000000AB = true := by decide
theorem test_frameRd_unwritten : faultIs (execFrameRd 5#20 State.reset) (.unwrittenFrame 5) = true := by decide
theorem test_planeWr :
    nextHas (execPlaneWr 5#20 0xAA#8 (small 1 1 [] [(5, 1), (9, 2)])) (fun t => t.plane == cells [(5, 0xAA), (9, 2)]) = true := by
  decide
theorem test_planeWr_out_of_range : answers State.reset 0xB0080000 0x60000000 = true := by decide
theorem test_planeRd : answers (small 1 1 [] [(0x7FF, 0x01)]) 0xC007FF00 0x00000001 = true := by decide
theorem test_planeRd_unwritten : faultIs (execPlaneRd 5#20 State.reset) (.unwrittenPlane 5) = true := by decide

/-- 00_scope.md R6: the block's sizes are legal. -/
theorem test_block_sizes : Config.block.sizesLegal = true := by decide

/-- 70_reset_and_hazards.md R160, taken between two commands. -/
theorem test_reset_input :
    nextHas (step { small 3 4 [(0, 1)] [(1, 2)] with incoming := [.reset, .command 0#32], responses := [7#32] })
      (fun t => t == { State.reset with incoming := [.command 0#32], responses := [7#32] }) = true := by decide

/-! ### Witnesses: a state and operands that meet a statement's hypotheses, at the ends of their ranges -/

theorem witness_LegalWordIsTheWordOfItsCommand : decode 0x300000FF#32 = .ok (.setCmap 15#4 15#4) := by decide

theorem witness_LegalWordsAreThoseOfTheOpcodeMap :
    0xB0FFFFFF#32 &&& (Instr.planeWr 0#20 0#8).row.mask = (Instr.planeWr 0#20 0#8).row.pattern ∧
    0xD0000000#32 &&& 0xF0000000#32 = 0xD0000000#32 ∧ 0xEFFFFFFF#32 &&& 0xF0000000#32 = 0xE0000000#32 ∧
    0xFFFFFFFF#32 &&& 0xF0000000#32 = 0xF0000000#32 := by decide

/-- A word of every opcode (0 to 12 for the rows, 13 for the reserved ones). -/
theorem witness_DecodingProcedureOfEveryOpcode :
    ((List.range 16).all fun k => ((BitVec.ofNat 32 (k <<< 28) : Word).extractLsb' 28 4).toNat == k) = true := by decide

/-- The largest operand of each field's width, and the smallest that does not fit. -/
theorem witness_AssemblerWordsAndRefusals :
    255 < 2 ^ 8 ∧ 15 < 2 ^ 4 ∧ 65535 < 2 ^ 16 ∧ 1048575 < 2 ^ 20 ∧
    2 ^ 8 ≤ 256 ∧ 2 ^ 4 ≤ 16 ∧ 2 ^ 16 ≤ 65536 ∧ 2 ^ 20 ≤ 1048576 := by decide

theorem witness_PseudoCommandExpansions :
    65535 < 2 ^ 16 ∧ (List.replicate 16 15).length = 16 ∧ (∀ v ∈ List.replicate 16 15, v < 2 ^ 4) ∧ [255] ≠ [] ∧
    1048575 + [255].length ≤ 2 ^ 20 ∧ (∀ b ∈ [255], b < 2 ^ 8) := by decide

theorem witness_StepRunsTheDecodedCommand :
    (State.reset.withFetchWord 32 0x30000050).incoming = .command 0x30000050#32 :: [] ∧
    decode 0x30000050#32 = .ok (.setCmap 5#4 0#4) := by decide

theorem witness_IdleStepKeepsAllState : State.reset.incoming = [] := by decide

/-- The lowest and the highest word of each reserved opcode. -/
theorem witness_ReservedOpcodeIsRejected :
    ([0xD0000000, 0xDFFFFFFF, 0xE0000000, 0xEFFFFFFF, 0xF0000000, 0xFFFFFFFF].all fun w =>
      (State.reset.withFetchWord 32 w).incoming == [.command (BitVec.ofNat 32 w)] &&
      decide (13 ≤ ((BitVec.ofNat 32 w : Word).extractLsb' 28 4).toNat)) = true := by decide

/-- For every format with reserved bits, a word with the lowest one set. -/
theorem witness_ReservedBitIsRejected :
    ([(0x0, 0x0FFFFFFF, 0x00000001), (0x1, 0x0FFF0000, 0x10010000), (0x2, 0x0FFF0000, 0x20010000),
      (0x3, 0x0FFFFF00, 0x30000100), (0x4, 0x0FFFFFFF, 0x40000001), (0x5, 0x0FFF0000, 0x50010000),
      (0x6, 0x0FFF0000, 0x60010000), (0x7, 0x0FFFFF00, 0x70000100), (0x8, 0x0FFFFFE0, 0x80000020),
      (0xA, 0x000000FF, 0xA0000001), (0xC, 0x000000FF, 0xC0000001)].all fun x =>
      ((BitVec.ofNat 32 x.2.2 : Word).extractLsb' 28 4).toNat == x.1 &&
      (BitVec.ofNat 32 x.2.2 : Word) &&& BitVec.ofNat 32 x.2.1 != 0#32) = true := by decide

theorem witness_EveryCommandWordGetsOneResponse :
    ∃ t, (State.reset.withFetchWord 32 0x30000050).incoming = .command 0x30000050#32 :: [] ∧
      step (State.reset.withFetchWord 32 0x30000050) = .next t := ⟨_, rfl, rfl⟩

theorem witness_RejectionChangesNoState :
    ∃ t, (State.reset.withFetchWord 32 0xD0000000).incoming = .command 0xD0000000#32 :: [] ∧
      step (State.reset.withFetchWord 32 0xD0000000) = .next t ∧ t.responses = [] ++ [0x10000000#32] ∧
      (0x10000000#32).extractLsb' 28 4 ≠ 0#4 := ⟨_, rfl, rfl, by decide, by decide⟩

/-- A word for every cause of 60_exceptions.md R142, and words with two causes (R110, R142). -/
theorem witness_StatusReportsTheFirstCause :
    ([(0xD0000001, 0x10000000), (0x00000001, 0x20000000), (0x70000112, 0x20000000), (0x70000012, 0x30000000),
      (0x80000003, 0x40000000), (0x80000004, 0x50000000), (0x90100000, 0x60000000), (0xC0080000, 0x60000000),
      (0x00000000, 0x00000000)].all fun x => answers (small 129 32 [] []) x.1 x.2) = true := by decide

theorem witness_FaultsAreReadsOfUnwrittenBytes :
    faultIs (step (State.reset.withFetchWord 32 0xA0000000)) (.unwrittenFrame 0) = true ∧
    faultIs (step (State.reset.withFetchWord 32 0xC007FF00)) (.unwrittenPlane 0x7FF) = true ∧
    faultIs (step ((small 2 1 [(0, 0)] []).withFetchWord 32 0x80000004)) (.unwrittenFrame 1) = true := by decide

theorem witness_ResetBetweenCommands : ({ State.reset with incoming := [.reset] } : State).incoming = .reset :: [] := rfl

/-- A quotient that is rounded, and a tie (5/4 at two bits: 2.5 to 2). -/
theorem witness_RoundingIsToNearestTiesToEven :
    1 ≤ 53 ∧ 1 ≤ 225 ∧ 1 < 225 * 2 ^ (53 - 1) ∧ roundTo 2 5 4 = ⟨2, 1⟩ ∧ 5 < 4 * 2 ^ (2 - 1) ∧
    2 * (((2 * 4 : Nat) : Int) - 5 * 2 ^ 1).natAbs = 4 := by decide

theorem witness_Binary64DotHasItsIntegerForm : e64.has 0x17#8 0xF7#8 = true := by decide
theorem witness_OtherSettingsHaveTheirIntegerForm : e32.has 0x1B#8 0xBF#8 = true ∧ ex87.has 0x25#8 0x5F#8 = true := by decide

theorem witness_TableLawsHoldInEverySetting :
    dotExact ∈ namedDots ∧ alpha 0xF7#8 = 15#4 ∧ alpha 0x0F#8 = 0#4 ∧ alpha 0x0C#8 = 0#4 ∧
    Config.block.lutNumerics = .binary64 := ⟨by simp [namedDots], by decide, by decide, by decide, rfl⟩

theorem witness_NopCompletes : (0x00000001#32).extractLsb' 28 4 = 0x0#4 ∧ (0x00000001#32).extractLsb' 0 28 ≠ 0#28 := by decide
theorem witness_SetCmapWritesOneEntry :
    (1#4 ≠ 0#4) ∧ (0x30000100#32).extractLsb' 28 4 = 0x3#4 ∧ (0x30000100#32).extractLsb' 8 20 ≠ 0#20 := by decide
theorem witness_ResetCmapMakesTheIdentity :
    (0x4000000F#32).extractLsb' 28 4 = 0x4#4 ∧ (0x4000000F#32).extractLsb' 0 28 ≠ 0#28 := by decide
theorem witness_SetWidthCompletes :
    (0x50010000#32).extractLsb' 28 4 = 0x5#4 ∧ (0x50010000#32).extractLsb' 16 12 ≠ 0#12 := by decide
theorem witness_SetHeightCompletes :
    (0x60010000#32).extractLsb' 28 4 = 0x6#4 ∧ (0x60010000#32).extractLsb' 16 12 ≠ 0#12 := by decide
/-- The ends of the undefined selectors' two ranges. -/
theorem witness_ReadCfgAnswersEverySelector :
    ([0x12, 0x1F, 0x30, 0xFF].all fun n => let sel := BitVec.ofNat 8 n
      decide (0x12 ≤ sel.toNat ∧ sel.toNat ≤ 0x1F ∨ 0x30 ≤ sel.toNat)) = true ∧
    (0x70000100#32).extractLsb' 28 4 = 0x7#4 ∧ (0x70000100#32).extractLsb' 8 20 ≠ 0#20 := by decide

/-- A pixel of nonzero dot and one of dot 0. -/
theorem witness_PlanesLitAreTheOnesOfTheCode :
    let s := small 2 1 [(0, 0xA7), (1, 0xF0)] []
    s.frame.read (frameAddr s.width.toNat 0 0) = some 0xA7#8 ∧ dot 0xA7#8 ≠ 0#4 ∧
    s.frame.read (frameAddr s.width.toNat 0 1) = some 0xF0#8 ∧ dot 0xF0#8 = 0#4 := by decide

theorem witness_PixelStaysInItsPlane : 1 < (small 12 2 [] []).height.toNat ∧ 11 < (small 12 2 [] []).width.toNat := by decide
theorem witness_BitOfAPixelIsItsOwnAtWidthsOfEight :
    16 % 8 = 0 ∧ 15 < 16 ∧ frameAddr 16 1 15 / 8 = frameAddr 16 1 15 / 8 ∧ 15 % 8 = 15 % 8 := by decide
theorem witness_ObservedSizeFillsBothMemories : 127 < 128 ∧ 0 < 128 ∧ ((31, 127) : Nat × Nat) ≠ (31, 0) := by decide

theorem witness_EncodeRejectsEveryOtherCount : 3#4 ≠ 4#4 ∧ 5#4 ≠ 4#4 := by decide
/-- The smallest frame that does not fit the block; and, with a PLANE of 4 bytes, a frame of 9 pixels that fits FRAME
while its planes do not fit PLANE. -/
theorem witness_EncodeRejectsAFrameTooLarge :
    let c : Config := { Config.block with planeMemBytes := 4 }
    let s := small 4097 1 [] []
    let s' := small 9 1 [] []
    Config.block.frameMemBytes < s.width.toNat * s.height.toNat ∧ 2048 < 4 * ((s.width.toNat * s.height.toNat + 7) / 8) ∧
    s'.width.toNat * s'.height.toNat ≤ c.frameMemBytes ∧
    c.planeMemBytes < 4 * ((s'.width.toNat * s'.height.toNat + 7) / 8) := by decide
theorem witness_DegenerateInputsAreNoErrors : (small 0 5 [] []).width = 0#16 ∧ (small 5 0 [] []).height = 0#16 := by decide

/-- A loaded frame whose last byte is shared out unevenly, and the largest frame that fits. -/
theorem witness_EncodeComputesTheFourPlanes :
    let s := small 3 1 [(0, 0x0F), (1, 0xA1), (2, 0)] []
    s.frameFits ∧ s.frameLoaded ∧ 3 < 4 ∧ 0 < s.planeSize ∧ 4 * s.planeSize ≤ 4 ∧ State.reset.frameFits := by decide

theorem witness_EncodeDependsOnlyOnDotsAndMap :
    let s := small 1 1 [(0, 0xA0)] [(0, 1)]
    let s' := (small 1 1 [(0, 0x50)] []).writeCmap 0#4 9#4
    s.width = s'.width ∧ s.height = s'.height ∧ s.frameFits ∧ 0 < s.pixelCount ∧
    (∀ a < s.pixelCount, (s.frame.read a).map dot = (s'.frame.read a).map dot) ∧
    (∀ d : BitVec 4, d ≠ 0#4 → s.readCmap d = s'.readCmap d) ∧
    (∃ t, exec (.encode true 4#4) s = .next t) ∧ (∃ t, exec (.encode true 4#4) s' = .next t) :=
  ⟨rfl, rfl, by decide, by decide, by decide, by decide, ⟨_, rfl⟩, ⟨_, rfl⟩⟩

theorem witness_EncodeFaultsAtTheFirstUnwrittenByte :
    let s := small 3 1 [(0, 0x0F), (2, 1)] []
    s.frameFits ∧ 1 < s.pixelCount ∧ s.frame.read 1 = none ∧ (∀ b < 1, (s.frame.read b).isSome) := by decide

theorem witness_TwoByOneFrameLightsBitZeroOfEachPlane :
    let s := small 2 1 [(0, 0x0F), (1, 0x00)] []
    s.width = 2#16 ∧ s.height = 1#16 ∧ s.frame.read 0 = some 0x0F#8 ∧ s.frame.read 1 = some 0x00#8 ∧
    s.readCmap 15#4 = 15#4 := by decide

theorem witness_FrameWrStoresOneByte :
    (4095#20).toNat < 4096 ∧ 4096 ≤ (4096#20).toNat ∧ (0x90000000#32).extractLsb' 28 4 = 0x9#4 ∧
    dot 0xA3#8 = dot 0x03#8 := by decide
theorem witness_FrameRdAnswersOneByte :
    (4095#20).toNat < 4096 ∧ (small 1 1 [(4095, 7)] []).frame.read 4095 = some 7#8 ∧ 4096 ≤ (4096#20).toNat ∧
    State.reset.frame.read 4095 = none ∧ (0xA0000001#32).extractLsb' 28 4 = 0xA#4 ∧
    (0xA0000001#32).extractLsb' 0 8 ≠ 0#8 ∧ nextHas (exec (.frameWr 0#20 0x0F#8) State.reset) (fun _ => true) = true := by
  decide
theorem witness_PlaneWrStoresOneByte :
    (2047#20).toNat < 2048 ∧ 2048 ≤ (2048#20).toNat ∧ (0xB0000000#32).extractLsb' 28 4 = 0xB#4 ∧
    (small 1 1 [(0, 0xA0)] []).frameFits ∧ 4 * (small 1 1 [(0, 0xA0)] []).planeSize ≤ 4 ∧
    (∃ t, exec (.encode false 4#4) (small 1 1 [(0, 0xA0)] []) = .next t) ∧
    (∃ t, exec (.encode false 4#4) ((small 1 1 [(0, 0xA0)] []).withPlane ((small 1 1 [(0, 0xA0)] []).plane.write 4 7#8)) =
      .next t) :=
  ⟨by decide, by decide, by decide, by decide, by decide, ⟨_, rfl⟩, ⟨_, rfl⟩⟩
theorem witness_PlaneRdAnswersOneByte :
    (2047#20).toNat < 2048 ∧ (small 1 1 [] [(2047, 7)]).plane.read 2047 = some 7#8 ∧ 2048 ≤ (2048#20).toNat ∧
    State.reset.plane.read 2047 = none ∧ (0xC0000001#32).extractLsb' 28 4 = 0xC#4 ∧
    (0xC0000001#32).extractLsb' 0 8 ≠ 0#8 := by decide

theorem witness_EveryStepKeepsTheInvariant :
    let s := (small 2 1 [(0, 5), (4095, 1)] [(2047, 1)]).withFetchWord 32 0x900FFF02
    s.Inv ∧ nextHas (step s) (fun _ => true) = true := by decide

theorem witness_EachPieceOfStateHasItsWriters :
    (∃ t, exec (.setCmap 3#4 12#4) State.reset = .next t ∧ t.cmap ≠ State.reset.cmap) ∧
    (∃ t, exec (.setWidth 1#16) State.reset = .next t ∧ t.width ≠ State.reset.width) ∧
    (∃ t, exec (.setHeight 1#16) State.reset = .next t ∧ t.height ≠ State.reset.height) ∧
    (∃ t, exec (.frameWr 0#20 1#8) State.reset = .next t ∧ t.frame ≠ State.reset.frame) ∧
    (∃ t, exec (.planeWr 0#20 1#8) State.reset = .next t ∧ t.plane ≠ State.reset.plane) ∧
    (∃ t, exec (.encode true 4#4) (small 1 1 [(0, 0xA0)] []) = .next t ∧ t.plane ≠ []) :=
  ⟨⟨_, rfl, by decide⟩, ⟨_, rfl, by decide⟩, ⟨_, rfl, by decide⟩, ⟨_, rfl, by decide⟩, ⟨_, rfl, by decide⟩,
    ⟨_, rfl, by decide⟩⟩

theorem witness_EveryCommandIsIdempotent :
    ∃ t t', exec (.setCmap 3#4 12#4) State.reset = .next t ∧ exec (.setCmap 3#4 12#4) t = .next t' := ⟨_, _, rfl, rfl⟩

theorem witness_EarlierResponsesAffectNoCommand : ∃ t, exec (.readCfg 0x10#8) State.reset = .next t := ⟨_, rfl⟩

end Sys2Proof.Tests
end

