-- ==== Sys2Proof/Proofs/Scope.lean ====
section
/-! The statements of 00_scope.md: the rounding of R8, and the step of R12. -/

namespace Sys2Proof.Machine

/-! ### Rounding a quotient to a natural (00_scope.md R8) -/

/-- Everything `roundHalfEven` can do: keep the floor of the quotient up to the half, take the next natural from the
half on, and at the half itself whichever of the two is even. -/
theorem roundHalfEven_cases (a b : Nat) :
    (roundHalfEven a b = a / b ∧ 2 * (a % b) ≤ b ∧ (2 * (a % b) = b → a / b % 2 = 0)) ∨
    (roundHalfEven a b = a / b + 1 ∧ b ≤ 2 * (a % b) ∧ (2 * (a % b) = b → (a / b + 1) % 2 = 0)) := by
  unfold roundHalfEven
  split
  · next below => exact .inl ⟨rfl, below.le, fun tie => by omega⟩
  · split
    · next above => exact .inr ⟨rfl, above.le, fun tie => by omega⟩
    · rcases Nat.mod_two_eq_zero_or_one (a / b) with even | odd
      · exact .inl ⟨by rw [even, add_zero], by omega, fun _ => even⟩
      · exact .inr ⟨by rw [odd], by omega, fun _ => by omega⟩

/-- What the floor of the quotient lacks. -/
theorem natAbs_div_mul_sub (a b : Nat) : (((a / b : Nat) * b : Int) - a).natAbs = a % b := by
  have divMod : (a / b : Nat) * (b : Int) + (a % b : Nat) = a := mod_cast Nat.div_add_mod' a b
  omega

/-- What the natural after the floor has too much. -/
theorem natAbs_div_succ_mul_sub (a : Nat) {b : Nat} (hb : 0 < b) :
    (((a / b + 1 : Nat) * b : Int) - a).natAbs = b - a % b := by
  have divMod : (a / b : Nat) * (b : Int) + (a % b : Nat) = a := mod_cast Nat.div_add_mod' a b
  have succ : ((a / b + 1 : Nat) : Int) * b = (a / b : Nat) * (b : Int) + b := by push_cast; ring
  have rest := Nat.mod_lt a hb
  omega

/-- The error is at most half of the divisor. -/
theorem roundHalfEven_error_le (a : Nat) {b : Nat} (hb : 0 < b) :
    2 * ((roundHalfEven a b * b : Int) - a).natAbs ≤ b := by
  rcases roundHalfEven_cases a b with ⟨floor, half, -⟩ | ⟨succ, half, -⟩
  · rw [floor, natAbs_div_mul_sub]; exact half
  · rw [succ, natAbs_div_succ_mul_sub a hb]; omega

/-- An error of exactly half of the divisor is a tie, and a tie goes to the even natural. -/
theorem roundHalfEven_even_of_tie {a b : Nat} (hb : 0 < b)
    (tie : 2 * ((roundHalfEven a b * b : Int) - a).natAbs = b) : roundHalfEven a b % 2 = 0 := by
  rcases roundHalfEven_cases a b with ⟨floor, -, even⟩ | ⟨succ, -, even⟩
  · rw [floor, natAbs_div_mul_sub] at tie
    rw [floor]; exact even tie
  · rw [succ, natAbs_div_succ_mul_sub a hb] at tie
    rw [succ]; exact even (by omega)

/-- Two naturals' multiples of `b` lie at least `b` apart, so one within half of `b` is nearest. -/
theorem roundHalfEven_nearest (a : Nat) {b : Nat} (hb : 0 < b) (m : Nat) :
    ((roundHalfEven a b * b : Int) - a).natAbs ≤ ((m * b : Int) - a).natAbs := by
  have half := roundHalfEven_error_le a hb
  rcases lt_trichotomy m (roundHalfEven a b) with less | same | more
  · have apart : (m + 1 : Int) * b ≤ roundHalfEven a b * b := mod_cast Nat.mul_le_mul_right b less
    rw [add_one_mul] at apart
    omega
  · rw [same]
  · have apart : (roundHalfEven a b + 1 : Int) * b ≤ m * b := mod_cast Nat.mul_le_mul_right b more
    rw [add_one_mul] at apart
    omega

/-- A quotient between two naturals is rounded to one of them or to a natural between them. -/
theorem roundHalfEven_bounds {a b lo hi : Nat} (hb : 0 < b) (hlo : b * lo ≤ a) (hhi : a < b * hi) :
    lo ≤ roundHalfEven a b ∧ roundHalfEven a b ≤ hi := by
  have above : lo ≤ a / b := (Nat.le_div_iff_mul_le hb).2 (by rwa [mul_comm])
  have below : a / b < hi := (Nat.div_lt_iff_lt_mul hb).2 (by rwa [mul_comm])
  rcases roundHalfEven_cases a b with ⟨floor, -⟩ | ⟨succ, -⟩ <;> omega

/-! ### The scale of a significand (00_scope.md R8) -/

/-- The numerator's length does not exceed the denominator's by `p` bits, so the first guess of the scale is a proper
shift, with room to take one back. -/
theorem log2_lt_add_log2 {p num den : Nat} (hnum : num ≠ 0) (hp : 1 ≤ p) (hlt : num < den * 2 ^ (p - 1)) :
    num.log2 < p + den.log2 := by
  rw [Nat.log2_lt hnum]
  calc num < den * 2 ^ (p - 1) := hlt
    _ ≤ 2 ^ (den.log2 + 1) * 2 ^ (p - 1) := Nat.mul_le_mul_right _ Nat.lt_log2_self.le
    _ = 2 ^ (p + den.log2) := by rw [← pow_add]; congr 1; omega

/-- The scale brings the quotient into the binade of `p` bits. -/
theorem roundScale_spec {p num den : Nat} (hp : 1 ≤ p) (hnum : 1 ≤ num) (hden : 1 ≤ den)
    (hlt : num < den * 2 ^ (p - 1)) :
    den * 2 ^ (p - 1) ≤ num * 2 ^ roundScale p num den ∧ num * 2 ^ roundScale p num den < den * 2 ^ p := by
  have room := log2_lt_add_log2 (by omega) hp hlt
  have halves : den * 2 ^ p = 2 * (den * 2 ^ (p - 1)) := by
    rw [← mul_pow_sub_one (by omega) 2, Nat.mul_left_comm]
  unfold roundScale
  generalize hup : p + den.log2 - num.log2 = up
  obtain ⟨k, rfl⟩ : ∃ k, up = k + 1 := ⟨up - 1, by omega⟩
  have atLeast : den * 2 ^ (p - 1) ≤ num * 2 ^ (k + 1) :=
    calc den * 2 ^ (p - 1) ≤ 2 ^ (den.log2 + 1) * 2 ^ (p - 1) := Nat.mul_le_mul_right _ Nat.lt_log2_self.le
      _ = 2 ^ num.log2 * 2 ^ (k + 1) := by rw [← pow_add, ← pow_add]; congr 1; omega
      _ ≤ num * 2 ^ (k + 1) := Nat.mul_le_mul_right _ (Nat.log2_self_le (by omega))
  have below : num * 2 ^ k < den * 2 ^ p :=
    calc num * 2 ^ k < 2 ^ (num.log2 + 1) * 2 ^ k := Nat.mul_lt_mul_of_pos_right Nat.lt_log2_self (by positivity)
      _ = 2 ^ den.log2 * 2 ^ p := by rw [← pow_add, ← pow_add]; congr 1; omega
      _ ≤ den * 2 ^ p := Nat.mul_le_mul_right _ (Nat.log2_self_le (by omega))
  dsimp only
  split
  · next fits => exact ⟨atLeast, fits⟩
  · next tooLarge =>
    rw [Nat.add_sub_cancel]
    rw [pow_succ, ← mul_assoc] at tooLarge
    exact ⟨by omega, below⟩

/-- A nonzero quotient's rounded value. -/
theorem roundTo_of_pos (p den : Nat) {num : Nat} (hnum : 1 ≤ num) :
    roundTo p num den = ⟨roundHalfEven (num * 2 ^ roundScale p num den) den, roundScale p num den⟩ :=
  if_neg (by omega)

/-- Settles O18: the scale puts the scaled quotient into the binade of `p` bits, and rounding it to a natural is to
the nearest, ties to even. -/
theorem roundingIsToNearestTiesToEven : Obligations.RoundingIsToNearestTiesToEven := by
  intro p num den hp hnum hden hlt
  obtain ⟨hlo, hhi⟩ := roundScale_spec hp hnum hden hlt
  obtain ⟨lower, upper⟩ := roundHalfEven_bounds hden hlo hhi
  have scaled : (num * 2 ^ roundScale p num den : Int) = (num * 2 ^ roundScale p num den : Nat) := by push_cast; rfl
  rw [roundTo_of_pos p den hnum]
  dsimp only
  rw [scaled]
  exact ⟨lower, upper, roundHalfEven_nearest _ hden, roundHalfEven_even_of_tie hden⟩

/-! ### The step (00_scope.md R12) -/

/-- A step that finds a command word at the port takes it off the port and does what the word asks. -/
theorem step_of_command {s : State} {w : Word} {rest : List HostInput} (hs : s.incoming = .command w :: rest) :
    step s = runWord w (s.withIncoming rest) := by
  rcases step_cases s with ⟨idle, -⟩ | ⟨w', rest', taken, result⟩ | ⟨rest', reset, -⟩
  · rw [hs] at idle; cases idle
  · rw [hs] at taken; cases taken; exact result
  · rw [hs] at reset; cases reset

/-- A word that decodes runs its command. -/
theorem runWord_of_decode {w : Word} {i : Instr} (hw : decode w = .ok i) (s : State) : runWord w s = exec i s := by
  rcases runWord_cases w s with ⟨j, decoded, runs⟩ | ⟨e, rejected, -⟩
  · rw [hw] at decoded; cases decoded; exact runs
  · rw [hw] at rejected; cases rejected

/-- Settles O8: the step takes the word off the port, and the word runs the command it decodes to. -/
theorem stepRunsTheDecodedCommand : Obligations.StepRunsTheDecodedCommand := by
  intro s w rest i hs hw
  rw [step_of_command hs, runWord_of_decode hw]
  rfl

end Sys2Proof.Machine
end

