-- ==== Sys2Proof/Proofs/StateRules.lean ====
section
/-! The statements of 10_state.md: the bit order of R24, the writers of each register and memory (R22, R23, R26, R27),
and R28: no command sees what was answered before. -/

namespace Sys2Proof.Machine

/-! ### The bit order (10_state.md R24) -/

/-- The one bit that `movedBit` carries: bit `k` of the code, at bit `π(k)`. -/
theorem movedBit_getLsbD (order : BitOrder) (c : BitVec 4) (k j : Fin 4) :
    (movedBit order c k).getLsbD j.val = (decide (k = order.symm j) && c.getLsbD k.val) := by
  have moved : k = order.symm j ↔ order k = j := Equiv.eq_symm_apply order
  simp only [movedBit, moved]
  clear moved
  generalize order k = m
  generalize c.getLsbD k.val = bit
  revert m j bit
  decide

/-- Each bit of the mapped code is the one bit of the code that π moves there. -/
theorem hwmap_getLsbD (order : BitOrder) (c : BitVec 4) (j : Fin 4) :
    (hwmap order c).getLsbD j.val = c.getLsbD (order.symm j).val := by
  simp only [hwmap, BitVec.getLsbD_or, movedBit_getLsbD]
  generalize order.symm j = k
  fin_cases k <;> simp

theorem hwmap_getLsbD_apply (order : BitOrder) (c : BitVec 4) (k : Fin 4) :
    (hwmap order c).getLsbD (order k).val = c.getLsbD k.val := by
  rw [hwmap_getLsbD, Equiv.symm_apply_apply]

theorem hwmap_injective (order : BitOrder) : Function.Injective (hwmap order) := by
  intro c d same
  refine BitVec.eq_of_getLsbD_eq fun k hk => ?_
  rw [← hwmap_getLsbD_apply order c ⟨k, hk⟩, same, hwmap_getLsbD_apply]

/-- A code whose bits are all equal is mapped to itself. -/
theorem hwmap_of_equal_bits (order : BitOrder) {c : BitVec 4} {bit : Bool}
    (equal : ∀ k : Fin 4, c.getLsbD k.val = bit) : hwmap order c = c := by
  refine BitVec.eq_of_getLsbD_eq fun k hk => ?_
  rw [hwmap_getLsbD order c ⟨k, hk⟩, equal, equal ⟨k, hk⟩]

/-- Settles O34: the mapped code's bit at `π(k)` is the code's bit `k`, from which the rest follows. -/
theorem hwmapMovesEachBitByThePermutation : Obligations.HwmapMovesEachBitByThePermutation := by
  intro order
  exact ⟨hwmap_getLsbD_apply order, fun _ _ same => hwmap_injective order same,
    hwmap_of_equal_bits order (bit := false) (by decide), hwmap_of_equal_bits order (bit := true) (by decide)⟩

/-! ### What each host access command can do -/

theorem readCfg_cases (c : Config) (sel : BitVec 8) (s : State) :
    (∃ v, cfgValue c sel s = some v ∧ readCfg c sel s = finish s v) ∨
    (cfgValue c sel s = none ∧ readCfg c sel s = reject s .badSelector) := by
  unfold readCfg
  cases cfgValue c sel s with
  | some v => exact .inl ⟨v, rfl, rfl⟩
  | none => exact .inr ⟨rfl, rfl⟩

theorem frameWr_cases (c : Config) (addr : BitVec 20) (data : BitVec 8) (s : State) :
    (c.frameMemBytes ≤ addr.toNat ∧ frameWr c addr data s = reject s .addrRange) ∨
    (addr.toNat < c.frameMemBytes ∧
      frameWr c addr data s = finish (s.withFrame (s.frame.write addr.toNat data)) 0#16) := by
  rcases le_or_gt c.frameMemBytes addr.toNat with outside | inside
  · exact .inl ⟨outside, if_pos outside⟩
  · exact .inr ⟨inside, if_neg inside.not_ge⟩

theorem planeWr_cases (c : Config) (addr : BitVec 20) (data : BitVec 8) (s : State) :
    (c.planeMemBytes ≤ addr.toNat ∧ planeWr c addr data s = reject s .addrRange) ∨
    (addr.toNat < c.planeMemBytes ∧
      planeWr c addr data s = finish (s.withPlane (s.plane.write addr.toNat data)) 0#16) := by
  rcases le_or_gt c.planeMemBytes addr.toNat with outside | inside
  · exact .inl ⟨outside, if_pos outside⟩
  · exact .inr ⟨inside, if_neg inside.not_ge⟩

theorem frameRd_cases (c : Config) (addr : BitVec 20) (s : State) :
    (c.frameMemBytes ≤ addr.toNat ∧ frameRd c addr s = reject s .addrRange) ∨
    (addr.toNat < c.frameMemBytes ∧ s.frame.read addr.toNat = none ∧
      frameRd c addr s = .fault (.unwrittenFrame addr.toNat)) ∨
    (addr.toNat < c.frameMemBytes ∧ ∃ v, s.frame.read addr.toNat = some v ∧
      frameRd c addr s = finish s (v.setWidth 16)) := by
  unfold frameRd memReadFrame
  rcases le_or_gt c.frameMemBytes addr.toNat with outside | inside
  · exact .inl ⟨outside, if_pos outside⟩
  · rw [if_neg inside.not_ge]
    cases s.frame.read addr.toNat with
    | none => exact .inr (.inl ⟨inside, rfl, rfl⟩)
    | some v => exact .inr (.inr ⟨inside, v, rfl, rfl⟩)

theorem planeRd_cases (c : Config) (addr : BitVec 20) (s : State) :
    (c.planeMemBytes ≤ addr.toNat ∧ planeRd c addr s = reject s .addrRange) ∨
    (addr.toNat < c.planeMemBytes ∧ s.plane.read addr.toNat = none ∧
      planeRd c addr s = .fault (.unwrittenPlane addr.toNat)) ∨
    (addr.toNat < c.planeMemBytes ∧ ∃ v, s.plane.read addr.toNat = some v ∧
      planeRd c addr s = finish s (v.setWidth 16)) := by
  unfold planeRd memReadPlane
  rcases le_or_gt c.planeMemBytes addr.toNat with outside | inside
  · exact .inl ⟨outside, if_pos outside⟩
  · rw [if_neg inside.not_ge]
    cases s.plane.read addr.toNat with
    | none => exact .inr (.inl ⟨inside, rfl, rfl⟩)
    | some v => exact .inr (.inr ⟨inside, v, rfl, rfl⟩)

/-! ### Who writes what (10_state.md R22, R23, R26, R27) -/

/-- `Writes s i u`: from `s`, command `i` may leave the registers and memories of `u`, before its response is added.
Any command may leave them all as they were: by reading only, or by being rejected. -/
inductive Writes (s : State) : Instr → State → Prop
  | nothing (i : Instr) : Writes s i s
  | cmapEntry (idx val : BitVec 4) : Writes s (.setCmap idx val) (s.writeCmap idx val)
  | cmapIdentity : Writes s .resetCmap s.writeCmapIdentity
  | width (imm : BitVec 16) : Writes s (.setWidth imm) (s.writeWidth imm)
  | height (imm : BitVec 16) : Writes s (.setHeight imm) (s.writeHeight imm)
  | planes {u : Bool} {m : Memory} (encoded : encodedPlane Config.block u s = .ok m) :
      Writes s (.encode u 4#4) (s.withPlane m)
  | frameByte (addr : BitVec 20) (data : BitVec 8) :
      Writes s (.frameWr addr data) (s.withFrame (s.frame.write addr.toNat data))
  | planeByte (addr : BitVec 20) (data : BitVec 8) :
      Writes s (.planeWr addr data) (s.withPlane (s.plane.write addr.toNat data))

/-- Everything a command can do: write what it writes and then respond, or stop in a fault. -/
theorem exec_cases (i : Instr) (s : State) :
    (∃ u status data, Writes s i u ∧ exec i s = .next (u.respond status data)) ∨ ∃ f, exec i s = .fault f := by
  cases i with
  | nop => exact .inl ⟨_, _, _, .nothing _, rfl⟩
  | blendAlpha src dst => exact .inl ⟨_, _, _, .nothing _, rfl⟩
  | blendAlphaBoth src dst => exact .inl ⟨_, _, _, .nothing _, rfl⟩
  | setCmap idx val => exact .inl ⟨_, _, _, .cmapEntry idx val, rfl⟩
  | resetCmap => exact .inl ⟨_, _, _, .cmapIdentity, rfl⟩
  | setWidth imm => exact .inl ⟨_, _, _, .width imm, rfl⟩
  | setHeight imm => exact .inl ⟨_, _, _, .height imm, rfl⟩
  | readCfg sel =>
    rcases readCfg_cases Config.block sel s with ⟨v, -, answered⟩ | ⟨-, rejected⟩
    · exact .inl ⟨_, _, _, .nothing _, answered⟩
    · exact .inl ⟨_, _, _, .nothing _, rejected⟩
  | encode u nsub =>
    rcases encodeFrame_cases Config.block u nsub s with
      ⟨-, rejected⟩ | ⟨-, -, rejected⟩ | ⟨-, -, f, -, faults⟩ | ⟨rfl, -, m, encoded, answered⟩
    · exact .inl ⟨_, _, _, .nothing _, rejected⟩
    · exact .inl ⟨_, _, _, .nothing _, rejected⟩
    · exact .inr ⟨f, faults⟩
    · exact .inl ⟨_, _, _, .planes encoded, answered⟩
  | frameWr addr data =>
    rcases frameWr_cases Config.block addr data s with ⟨-, rejected⟩ | ⟨-, answered⟩
    · exact .inl ⟨_, _, _, .nothing _, rejected⟩
    · exact .inl ⟨_, _, _, .frameByte addr data, answered⟩
  | frameRd addr =>
    rcases frameRd_cases Config.block addr s with ⟨-, rejected⟩ | ⟨-, -, faults⟩ | ⟨-, v, -, answered⟩
    · exact .inl ⟨_, _, _, .nothing _, rejected⟩
    · exact .inr ⟨_, faults⟩
    · exact .inl ⟨_, _, _, .nothing _, answered⟩
  | planeWr addr data =>
    rcases planeWr_cases Config.block addr data s with ⟨-, rejected⟩ | ⟨-, answered⟩
    · exact .inl ⟨_, _, _, .nothing _, rejected⟩
    · exact .inl ⟨_, _, _, .planeByte addr data, answered⟩
  | planeRd addr =>
    rcases planeRd_cases Config.block addr s with ⟨-, rejected⟩ | ⟨-, -, faults⟩ | ⟨-, v, -, answered⟩
    · exact .inl ⟨_, _, _, .nothing _, rejected⟩
    · exact .inr ⟨_, faults⟩
    · exact .inl ⟨_, _, _, .nothing _, answered⟩

/-- A command that goes on has written what it writes and responded. -/
theorem exec_next {i : Instr} {s t : State} (h : exec i s = .next t) :
    ∃ u status data, Writes s i u ∧ t = u.respond status data := by
  rcases exec_cases i s with ⟨u, status, data, writes, answered⟩ | ⟨f, faults⟩
  · rw [answered] at h
    cases h
    exact ⟨u, status, data, writes, rfl⟩
  · rw [faults] at h
    cases h

/-- Settles O52: by what each command writes, since a response changes no register and no memory. -/
theorem eachPieceOfStateHasItsWriters : Obligations.EachPieceOfStateHasItsWriters := by
  intro i s t h
  obtain ⟨u, status, data, writes, rfl⟩ := exec_next h
  cases writes <;> simp

/-! ### No command sees what was answered before (10_state.md R28) -/

/-- `s` with other responses returned so far. -/
def State.withResponses (s : State) (earlier : List Word) : State := { s with responses := earlier }

@[simp] theorem State.withResponses_responses (s : State) (l : List Word) : (s.withResponses l).responses = l := rfl
@[simp] theorem State.withResponses_frame (s : State) (l : List Word) : (s.withResponses l).frame = s.frame := rfl
@[simp] theorem State.withResponses_plane (s : State) (l : List Word) : (s.withResponses l).plane = s.plane := rfl

/-- Two outcomes, one after the responses `p` and one after `q`, that are the same but for `p` and `q`: both go on,
with one and the same response added, or both stop in the same fault. -/
inductive Alike (p q : List Word) : Result → Result → Prop
  | next (u : State) (r : Word) : Alike p q (.next (u.withResponses (p ++ [r]))) (.next (u.withResponses (q ++ [r])))
  | fault (f : Fault) : Alike p q (.fault f) (.fault f)

theorem Alike.of_next {p q : List Word} {t : State} {o : Result} (h : Alike p q (.next t) o) :
    ∃ r, t.responses = p ++ [r] ∧ o = .next (t.withResponses (q ++ [r])) := by
  cases h with
  | next u r => exact ⟨r, rfl, rfl⟩

theorem Alike.ite {p q : List Word} {check : Prop} [Decidable check] {a a' b b' : Result}
    (yes : Alike p q a a') (no : Alike p q b b') :
    Alike p q (if check then a else b) (if check then a' else b') := by
  split
  · exact yes
  · exact no

theorem finish_alike (s : State) (data : BitVec 16) (earlier : List Word) :
    Alike s.responses earlier (finish s data) (finish (s.withResponses earlier) data) :=
  .next s (responseWord .ok data)

theorem reject_alike (s : State) (code : Status) (earlier : List Word) :
    Alike s.responses earlier (reject s code) (reject (s.withResponses earlier) code) :=
  .next s (responseWord code 0#16)

theorem cfgValue_withResponses (c : Config) (sel : BitVec 8) (s : State) (earlier : List Word) :
    cfgValue c sel (s.withResponses earlier) = cfgValue c sel s := rfl

theorem encodePixel_withResponses (c : Config) (u : Bool) (s : State) (earlier : List Word) (row col : Nat)
    (m : Memory) : encodePixel c u (s.withResponses earlier) row col m = encodePixel c u s row col m := rfl

theorem encodePixels_withResponses (c : Config) (u : Bool) (s : State) (earlier : List Word) (l : List (Nat × Nat))
    (m : Memory) : encodePixels c u (s.withResponses earlier) l m = encodePixels c u s l m := by
  induction l generalizing m with
  | nil => rfl
  | cons pixel l ih => simp only [encodePixels, encodePixel_withResponses, ih]

theorem encodedPlane_withResponses (c : Config) (u : Bool) (s : State) (earlier : List Word) :
    encodedPlane c u (s.withResponses earlier) = encodedPlane c u s :=
  encodePixels_withResponses c u s earlier _ _

theorem readCfg_alike (c : Config) (sel : BitVec 8) (s : State) (earlier : List Word) :
    Alike s.responses earlier (readCfg c sel s) (readCfg c sel (s.withResponses earlier)) := by
  unfold readCfg
  rw [cfgValue_withResponses]
  cases cfgValue c sel s with
  | some v => exact finish_alike s v earlier
  | none => exact reject_alike s .badSelector earlier

theorem frameRd_alike (c : Config) (addr : BitVec 20) (s : State) (earlier : List Word) :
    Alike s.responses earlier (frameRd c addr s) (frameRd c addr (s.withResponses earlier)) := by
  unfold frameRd
  rw [State.withResponses_frame]
  refine .ite (reject_alike s .addrRange earlier) ?_
  cases memReadFrame s.frame addr.toNat with
  | error f => exact .fault f
  | ok v => exact finish_alike s _ earlier

theorem planeRd_alike (c : Config) (addr : BitVec 20) (s : State) (earlier : List Word) :
    Alike s.responses earlier (planeRd c addr s) (planeRd c addr (s.withResponses earlier)) := by
  unfold planeRd
  rw [State.withResponses_plane]
  refine .ite (reject_alike s .addrRange earlier) ?_
  cases memReadPlane s.plane addr.toNat with
  | error f => exact .fault f
  | ok v => exact finish_alike s _ earlier

theorem frameWr_alike (c : Config) (addr : BitVec 20) (data : BitVec 8) (s : State) (earlier : List Word) :
    Alike s.responses earlier (frameWr c addr data s) (frameWr c addr data (s.withResponses earlier)) :=
  .ite (reject_alike s .addrRange earlier) (finish_alike (s.withFrame (s.frame.write addr.toNat data)) 0#16 earlier)

theorem planeWr_alike (c : Config) (addr : BitVec 20) (data : BitVec 8) (s : State) (earlier : List Word) :
    Alike s.responses earlier (planeWr c addr data s) (planeWr c addr data (s.withResponses earlier)) :=
  .ite (reject_alike s .addrRange earlier) (finish_alike (s.withPlane (s.plane.write addr.toNat data)) 0#16 earlier)

theorem encodeFrame_alike (c : Config) (u : Bool) (nsub : BitVec 4) (s : State) (earlier : List Word) :
    Alike s.responses earlier (encodeFrame c u nsub s) (encodeFrame c u nsub (s.withResponses earlier)) := by
  unfold encodeFrame
  rw [encodedPlane_withResponses]
  refine .ite (reject_alike s .badSubframeCount earlier) (.ite (reject_alike s .frameExceedsMemory earlier) ?_)
  cases encodedPlane c u s with
  | error f => exact .fault f
  | ok m => exact finish_alike (s.withPlane m) 0#16 earlier

/-- Every command's outcome is the same whatever was answered before, its fault included. -/
theorem exec_alike (i : Instr) (s : State) (earlier : List Word) :
    Alike s.responses earlier (exec i s) (exec i (s.withResponses earlier)) := by
  cases i with
  | nop => exact finish_alike s _ earlier
  | blendAlpha src dst => exact finish_alike s _ earlier
  | blendAlphaBoth src dst => exact finish_alike s _ earlier
  | setCmap idx val => exact finish_alike (s.writeCmap idx val) _ earlier
  | resetCmap => exact finish_alike s.writeCmapIdentity _ earlier
  | setWidth imm => exact finish_alike (s.writeWidth imm) _ earlier
  | setHeight imm => exact finish_alike (s.writeHeight imm) _ earlier
  | readCfg sel => exact readCfg_alike Config.block sel s earlier
  | encode u nsub => exact encodeFrame_alike Config.block u nsub s earlier
  | frameWr addr data => exact frameWr_alike Config.block addr data s earlier
  | frameRd addr => exact frameRd_alike Config.block addr s earlier
  | planeWr addr data => exact planeWr_alike Config.block addr data s earlier
  | planeRd addr => exact planeRd_alike Config.block addr s earlier

/-- Settles O54: the two outcomes are alike, so where the first goes on, the second does, with the same response. -/
theorem earlierResponsesAffectNoCommand : Obligations.EarlierResponsesAffectNoCommand := by
  intro i s t earlier h
  exact (h ▸ exec_alike i s earlier).of_next

end Sys2Proof.Machine
end

