-- ==== Sys2Proof/Proofs/MemoryRules.lean ====
section
/-! The statements of 20_memory.md: the bit of a pixel (R45), idempotence of every command (R47), and the invariant of
the two memories and the responses (R48). -/

namespace Sys2Proof.Machine

/-! ### The bit of a pixel (20_memory.md R45) -/

theorem mod_eight_eq_frameAddr_mod_eight {width : Nat} (row col : Nat) (hw : width % 8 = 0) :
    col % 8 = frameAddr width row col % 8 := by
  rw [frameAddr, Nat.add_mod, Nat.mul_mod, hw, mul_zero, Nat.zero_mod, zero_add, Nat.mod_mod]

theorem frameAddr_div {width col : Nat} (row : Nat) (hcol : col < width) : frameAddr width row col / width = row := by
  rw [frameAddr, add_comm, Nat.add_mul_div_right _ _ (by omega), Nat.div_eq_of_lt hcol, zero_add]

theorem frameAddr_mod {width col : Nat} (row : Nat) (hcol : col < width) : frameAddr width row col % width = col := by
  rw [frameAddr, Nat.mul_add_mod', Nat.mod_eq_of_lt hcol]

/-- No two pixels of a frame share a byte of FRAME (20_memory.md R43). -/
theorem frameAddr_injective {width row col row' col' : Nat} (hcol : col < width) (hcol' : col' < width)
    (same : frameAddr width row col = frameAddr width row' col') : row = row' ∧ col = col' := by
  constructor
  · rw [← frameAddr_div row hcol, same, frameAddr_div row' hcol']
  · rw [← frameAddr_mod row hcol, same, frameAddr_mod row' hcol']

/-- Settles O37: at such widths a pixel's byte and bit are the quotient and the remainder of its FRAME address by 8,
and so determine it. -/
theorem bitOfAPixelIsItsOwnAtWidthsOfEight : Obligations.BitOfAPixelIsItsOwnAtWidthsOfEight := by
  refine ⟨fun _ row col hw => mod_eight_eq_frameAddr_mod_eight row col hw, ?_, fun _ _ => ⟨rfl, rfl, rfl, rfl⟩⟩
  intro width row col row' col' hw hcol hcol' sameByte sameBit
  rw [mod_eight_eq_frameAddr_mod_eight row col hw, mod_eight_eq_frameAddr_mod_eight row' col' hw] at sameBit
  have sameAddr : frameAddr width row col = frameAddr width row' col' := by omega
  exact frameAddr_injective hcol hcol' sameAddr

/-! ### Where ENCODE writes (20_memory.md R44, R48) -/

/-- The FRAME address of a pixel of the frame is below `N`. -/
theorem frameAddr_lt_pixelCount {s : State} {row col : Nat} (hrow : row < s.height.toNat) (hcol : col < s.width.toNat) :
    frameAddr s.width.toNat row col < s.pixelCount :=
  calc row * s.width.toNat + col < (row + 1) * s.width.toNat := by rw [add_one_mul]; omega
    _ ≤ s.height.toNat * s.width.toNat := Nat.mul_le_mul_right _ hrow
    _ = s.pixelCount := mul_comm _ _

/-- The PLANE address of a pixel of the frame is below `4P`, the end of the last plane. -/
theorem planeAddr_lt {s : State} {k row col : Nat} (hk : k < 4) (hrow : row < s.height.toNat)
    (hcol : col < s.width.toNat) : planeAddr s.width.toNat s.planeSize k row col < 4 * s.planeSize := by
  have inFrame := frameAddr_lt_pixelCount hrow hcol
  have inPlane : frameAddr s.width.toNat row col / 8 < s.planeSize := by
    unfold State.planeSize ceil8
    omega
  have before : k * s.planeSize ≤ 3 * s.planeSize := Nat.mul_le_mul_right _ (by omega)
  unfold planeAddr
  omega

/-- `P` holds on after a write of any byte below `limit`. -/
def KeptBelow (limit : Nat) (P : Memory → Prop) : Prop := ∀ m a v, a < limit → P m → P (m.write a v)

theorem keptBelow_within {limit size : Nat} (h : limit ≤ size) : KeptBelow limit (Memory.within · size) :=
  fun _ _ v ha hm => Memory.write_within v (ha.trans_le h) hm

theorem keptBelow_read {limit b : Nat} (h : limit ≤ b) (byte : Option Byte) :
    KeptBelow limit (fun m => m.read b = byte) :=
  fun m _ v ha hm => (m.read_write_other v (ha.trans_le h).ne).trans hm

theorem zeroPlanes_keeps {count : Nat} {P : Memory → Prop} (hP : KeptBelow count P) {m : Memory} (hm : P m) :
    P (zeroPlanes m count) := by
  refine List.foldlRecOn _ _ hm fun m' hm' a ha => ?_
  exact hP m' a 0#8 (List.mem_range.mp ha) hm'

section
variable {limit : Nat} {P : Memory → Prop} (hP : KeptBelow limit P)
include hP

theorem lightPlane_keeps {w p row col k : Nat} {code : BitVec 4} {m m' : Memory}
    (ha : planeAddr w p k row col < limit) (h : lightPlane w p row col code k m = .ok m') (hm : P m) : P m' := by
  rcases lightPlane_ok h with ⟨-, rfl⟩ | ⟨-, b, -, rfl⟩
  · exact hm
  · exact hP _ _ _ ha hm

theorem lightPlanes_keeps {w p row col : Nat} {code : BitVec 4} {ks : List Nat} {m m' : Memory}
    (ha : ∀ k ∈ ks, planeAddr w p k row col < limit) (h : lightPlanes w p row col code ks m = .ok m') (hm : P m) :
    P m' := by
  induction ks generalizing m with
  | nil => cases h; exact hm
  | cons k ks ih =>
    obtain ⟨m₁, first, others⟩ := lightPlanes_cons_ok h
    obtain ⟨hk, hks⟩ := List.forall_mem_cons.mp ha
    exact ih hks others (lightPlane_keeps hP hk first hm)

end

section
variable {c : Config} {u : Bool} {s : State} {P : Memory → Prop} (hP : KeptBelow (4 * s.planeSize) P)
include hP

theorem encodePixel_keeps {row col : Nat} {m m' : Memory} (hrow : row < s.height.toNat) (hcol : col < s.width.toNat)
    (h : encodePixel c u s row col m = .ok m') (hm : P m) : P m' := by
  obtain ⟨p, -, ⟨-, rfl⟩ | ⟨-, lit⟩⟩ := encodePixel_ok h
  · exact hm
  · have planes : ∀ k ∈ [0, 1, 2, 3], k < 4 := by decide
    exact lightPlanes_keeps hP (fun k hk => planeAddr_lt (planes k hk) hrow hcol) lit hm

theorem encodePixels_keeps {l : List (Nat × Nat)} {m m' : Memory}
    (hl : ∀ x ∈ l, x.1 < s.height.toNat ∧ x.2 < s.width.toNat) (h : encodePixels c u s l m = .ok m') (hm : P m) :
    P m' := by
  induction l generalizing m with
  | nil => cases h; exact hm
  | cons x l ih =>
    obtain ⟨m₁, first, others⟩ := encodePixels_cons_ok h
    obtain ⟨⟨hrow, hcol⟩, hl⟩ := List.forall_mem_cons.mp hl
    exact ih hl others (encodePixel_keeps hP hrow hcol first hm)

/-- `ENCODE` writes only below `4P`: whatever writes there keep, its passes keep. -/
theorem encodedPlane_keeps {m : Memory} (h : encodedPlane c u s = .ok m) (hs : P s.plane) : P m :=
  encodePixels_keeps hP (fun _ => mem_pixelOrder.mp) h (zeroPlanes_keeps hP hs)

end

theorem encodedPlane_within {c : Config} {u : Bool} {s : State} {m : Memory} {size : Nat} (fits : 4 * s.planeSize ≤ size)
    (h : encodedPlane c u s = .ok m) (hs : s.plane.within size) : m.within size :=
  encodedPlane_keeps (keptBelow_within fits) h hs

/-- PLANE from `4P` on is as it was before `ENCODE` (45_subframe_encoder.md R108). -/
theorem encodedPlane_read_above {c : Config} {u : Bool} {s : State} {m : Memory} {a : Nat} (ha : 4 * s.planeSize ≤ a)
    (h : encodedPlane c u s = .ok m) : m.read a = s.plane.read a :=
  encodedPlane_keeps (keptBelow_read ha _) h rfl

/-! ### The invariant (20_memory.md R48, 30_encoding.md R70, 60_exceptions.md R140) -/

/-- A response in R70's format keeps the invariant. -/
theorem State.Inv.respond {s : State} {st : Status} {d : BitVec 16} (hs : s.Inv)
    (format : responseFormat (responseWord st d)) : (s.respond st d).Inv := by
  obtain ⟨frameWf, planeWf, frameIn, planeIn, formats⟩ := hs
  refine ⟨frameWf, planeWf, frameIn, planeIn, ?_⟩
  rw [State.respond_responses, List.all_append, formats, List.all_cons, decide_eq_true format]
  rfl

theorem finish_keeps_inv {s t : State} {d : BitVec 16} (hs : s.Inv) (h : finish s d = .next t) : t.Inv := by
  obtain rfl := finish_next.mp h
  exact hs.respond (responseFormat_ok d)

theorem reject_keeps_inv {s t : State} {code : Status} (hs : s.Inv) (h : reject s code = .next t) : t.Inv := by
  obtain rfl := reject_next.mp h
  exact hs.respond (responseFormat_reject code)

theorem State.Inv.withFrame {s : State} {m : Memory} (hs : s.Inv) (wf : m.wf) (within : m.within 4096) :
    (s.withFrame m).Inv := by
  obtain ⟨-, planeWf, -, planeIn, formats⟩ := hs
  exact ⟨wf, planeWf, within, planeIn, formats⟩

theorem State.Inv.withPlane {s : State} {m : Memory} (hs : s.Inv) (wf : m.wf) (within : m.within 2048) :
    (s.withPlane m).Inv := by
  obtain ⟨frameWf, -, frameIn, -, formats⟩ := hs
  exact ⟨frameWf, wf, frameIn, within, formats⟩

/-- Reset empties both memories and keeps the responses. -/
theorem State.Inv.applyReset {s : State} (hs : s.Inv) : s.applyReset.Inv := by
  obtain ⟨-, -, -, -, formats⟩ := hs
  exact ⟨Memory.wf_nil, Memory.wf_nil, List.forall_mem_nil _, List.forall_mem_nil _, formats⟩

theorem frameWr_keeps_inv {addr : BitVec 20} {data : BitVec 8} {s t : State} (hs : s.Inv)
    (h : frameWr Config.block addr data s = .next t) : t.Inv := by
  rcases frameWr_cases Config.block addr data s with ⟨-, rejected⟩ | ⟨inside, written⟩
  · exact reject_keeps_inv hs (rejected.symm.trans h)
  · have ⟨wf, _, within, _⟩ := hs
    exact finish_keeps_inv (hs.withFrame (Memory.write_wf _ _ wf) (Memory.write_within _ inside within))
      (written.symm.trans h)

theorem planeWr_keeps_inv {addr : BitVec 20} {data : BitVec 8} {s t : State} (hs : s.Inv)
    (h : planeWr Config.block addr data s = .next t) : t.Inv := by
  rcases planeWr_cases Config.block addr data s with ⟨-, rejected⟩ | ⟨inside, written⟩
  · exact reject_keeps_inv hs (rejected.symm.trans h)
  · have ⟨_, wf, _, within, _⟩ := hs
    exact finish_keeps_inv (hs.withPlane (Memory.write_wf _ _ wf) (Memory.write_within _ inside within))
      (written.symm.trans h)

theorem encodeFrame_keeps_inv {u : Bool} {nsub : BitVec 4} {s t : State} (hs : s.Inv)
    (h : encodeFrame Config.block u nsub s = .next t) : t.Inv := by
  rcases encodeFrame_cases Config.block u nsub s with
    ⟨-, rejected⟩ | ⟨-, -, rejected⟩ | ⟨-, -, f, -, faults⟩ | ⟨-, ⟨-, fits⟩, m, encoded, answered⟩
  · exact reject_keeps_inv hs (rejected.symm.trans h)
  · exact reject_keeps_inv hs (rejected.symm.trans h)
  · cases faults.symm.trans h
  · have ⟨_, wf, _, within, _⟩ := hs
    exact finish_keeps_inv (hs.withPlane (encodedPlane_wf encoded wf) (encodedPlane_within fits encoded within))
      (answered.symm.trans h)

theorem exec_keeps_inv {i : Instr} {s t : State} (hs : s.Inv) (h : exec i s = .next t) : t.Inv := by
  cases i with
  | nop | blendAlpha | blendAlphaBoth => exact finish_keeps_inv hs h
  | setCmap idx val => exact finish_keeps_inv (s := s.writeCmap idx val) hs h
  | resetCmap => exact finish_keeps_inv (s := s.writeCmapIdentity) hs h
  | setWidth imm => exact finish_keeps_inv (s := s.writeWidth imm) hs h
  | setHeight imm => exact finish_keeps_inv (s := s.writeHeight imm) hs h
  | readCfg sel =>
    rcases readCfg_cases Config.block sel s with ⟨v, -, answered⟩ | ⟨-, rejected⟩
    · exact finish_keeps_inv hs (answered.symm.trans h)
    · exact reject_keeps_inv hs (rejected.symm.trans h)
  | encode u nsub => exact encodeFrame_keeps_inv hs h
  | frameWr addr data => exact frameWr_keeps_inv hs h
  | frameRd addr =>
    rcases frameRd_cases Config.block addr s with ⟨-, rejected⟩ | ⟨-, -, faults⟩ | ⟨-, v, -, answered⟩
    · exact reject_keeps_inv hs (rejected.symm.trans h)
    · cases faults.symm.trans h
    · exact finish_keeps_inv hs (answered.symm.trans h)
  | planeWr addr data => exact planeWr_keeps_inv hs h
  | planeRd addr =>
    rcases planeRd_cases Config.block addr s with ⟨-, rejected⟩ | ⟨-, -, faults⟩ | ⟨-, v, -, answered⟩
    · exact reject_keeps_inv hs (rejected.symm.trans h)
    · cases faults.symm.trans h
    · exact finish_keeps_inv hs (answered.symm.trans h)

/-- A command word keeps the invariant, whether it decodes or not. -/
theorem runWord_keeps_inv {w : Word} {s t : State} (hs : s.Inv) (h : runWord w s = .next t) : t.Inv := by
  rcases runWord_cases w s with ⟨i, -, runs⟩ | ⟨e, -, rejected⟩
  · exact exec_keeps_inv hs (runs.symm.trans h)
  · exact reject_keeps_inv hs (rejected.symm.trans h)

/-- Settles O51: by the three kinds of step; taking an input from the port changes nothing the invariant speaks of. -/
theorem everyStepKeepsTheInvariant : Obligations.EveryStepKeepsTheInvariant := by
  intro s t hs h
  rcases step_cases s with ⟨-, idle⟩ | ⟨w, rest, -, runs⟩ | ⟨rest, -, reset⟩
  · cases idle.symm.trans h
    exact hs
  · exact runWord_keeps_inv (s := s.withIncoming rest) hs (runs.symm.trans h)
  · cases reset.symm.trans h
    exact State.Inv.applyReset (s := s.withIncoming rest) hs

/-! ### ENCODE sees of PLANE only what it reads -/

/-- Every byte reads the same from both. -/
def Memory.SameReads (m n : Memory) : Prop := ∀ a, m.read a = n.read a

theorem Memory.SameReads.write {m n : Memory} (same : m.SameReads n) (a : Nat) (v : Byte) :
    (m.write a v).SameReads (n.write a v) := by
  intro b
  rw [Memory.read_write, Memory.read_write, same b]

/-- Writing a byte a second time changes no read. -/
theorem Memory.write_write_sameReads (m : Memory) (a : Nat) (v : Byte) :
    ((m.write a v).write a v).SameReads (m.write a v) := by
  intro b
  simp only [Memory.read_write]
  split <;> rfl

theorem lightPlane_sameReads {w p row col k : Nat} {code : BitVec 4} {m m' n n' : Memory} (same : m.SameReads n)
    (hm : lightPlane w p row col code k m = .ok m') (hn : lightPlane w p row col code k n = .ok n') :
    m'.SameReads n' := by
  rcases lightPlane_ok hm with ⟨dark, rfl⟩ | ⟨lit, b, readM, rfl⟩ <;>
    rcases lightPlane_ok hn with ⟨dark', rfl⟩ | ⟨lit', b', readN, rfl⟩
  · exact same
  · rw [dark] at lit'; cases lit'
  · rw [dark'] at lit; cases lit
  · rw [same, readN] at readM
    cases readM
    exact same.write _ _

theorem lightPlanes_sameReads {w p row col : Nat} {code : BitVec 4} {ks : List Nat} {m m' n n' : Memory}
    (same : m.SameReads n) (hm : lightPlanes w p row col code ks m = .ok m')
    (hn : lightPlanes w p row col code ks n = .ok n') : m'.SameReads n' := by
  induction ks generalizing m n with
  | nil => cases hm; cases hn; exact same
  | cons k ks ih =>
    obtain ⟨m₁, firstM, othersM⟩ := lightPlanes_cons_ok hm
    obtain ⟨n₁, firstN, othersN⟩ := lightPlanes_cons_ok hn
    exact ih (lightPlane_sameReads same firstM firstN) othersM othersN

theorem encodePixel_sameReads {c : Config} {u : Bool} {s : State} {row col : Nat} {m m' n n' : Memory}
    (same : m.SameReads n) (hm : encodePixel c u s row col m = .ok m') (hn : encodePixel c u s row col n = .ok n') :
    m'.SameReads n' := by
  obtain ⟨p, readP, pixelM⟩ := encodePixel_ok hm
  obtain ⟨q, readQ, pixelN⟩ := encodePixel_ok hn
  obtain rfl : p = q := by simpa [readP] using readQ
  rcases pixelM with ⟨dark, rfl⟩ | ⟨lit, planesM⟩ <;> rcases pixelN with ⟨dark', rfl⟩ | ⟨lit', planesN⟩
  · exact same
  · exact absurd dark lit'
  · exact absurd dark' lit
  · exact lightPlanes_sameReads same planesM planesN

theorem encodePixels_sameReads {c : Config} {u : Bool} {s : State} {l : List (Nat × Nat)} {m m' n n' : Memory}
    (same : m.SameReads n) (hm : encodePixels c u s l m = .ok m') (hn : encodePixels c u s l n = .ok n') :
    m'.SameReads n' := by
  induction l generalizing m n with
  | nil => cases hm; cases hn; exact same
  | cons x l ih =>
    obtain ⟨m₁, firstM, othersM⟩ := encodePixels_cons_ok hm
    obtain ⟨n₁, firstN, othersN⟩ := encodePixels_cons_ok hn
    exact ih (encodePixel_sameReads same firstM firstN) othersM othersN

theorem zeroPlanes_sameReads {m n : Memory} {count : Nat} (same : ∀ a, count ≤ a → m.read a = n.read a) :
    (zeroPlanes m count).SameReads (zeroPlanes n count) := by
  intro a
  rw [zeroPlanes_read, zeroPlanes_read]
  split
  · rfl
  · next above => exact same a (not_lt.mp above)

theorem encodePixel_withPlane (c : Config) (u : Bool) (s : State) (plane : Memory) (row col : Nat) (m : Memory) :
    encodePixel c u (s.withPlane plane) row col m = encodePixel c u s row col m := rfl

/-- The pixels' passes work on the planes they are handed, not on the PLANE of the state. -/
theorem encodePixels_withPlane (c : Config) (u : Bool) (s : State) (plane : Memory) (l : List (Nat × Nat))
    (m : Memory) : encodePixels c u (s.withPlane plane) l m = encodePixels c u s l m := by
  induction l generalizing m with
  | nil => rfl
  | cons x l ih => simp only [encodePixels, encodePixel_withPlane, ih]

/-- Encoding a frame again over its own planes gives the same planes: below `4P` they are zeroed first, and from `4P`
on the first encoding left PLANE as it was. -/
theorem encodedPlane_again {c : Config} {u : Bool} {s : State} {m m' : Memory} (h : encodedPlane c u s = .ok m)
    (h' : encodedPlane c u (s.withPlane m) = .ok m') : m'.SameReads m := by
  have zeroed : (zeroPlanes m (4 * s.planeSize)).SameReads (zeroPlanes s.plane (4 * s.planeSize)) :=
    zeroPlanes_sameReads fun _ above => encodedPlane_read_above above h
  exact encodePixels_sameReads zeroed ((encodePixels_withPlane c u s m _ _).symm.trans h') h

/-! ### Running a command again (20_memory.md R47) -/

/-- `t` has the registers of `s`, and every byte of both memories reads the same. -/
def State.SameContents (t s : State) : Prop :=
  t.cmap = s.cmap ∧ t.width = s.width ∧ t.height = s.height ∧ t.frame.SameReads s.frame ∧ t.plane.SameReads s.plane

theorem State.respond_sameContents (s : State) (st : Status) (d : BitVec 16) : (s.respond st d).SameContents s :=
  ⟨rfl, rfl, rfl, fun _ => rfl, fun _ => rfl⟩

theorem frameWr_again {c : Config} {addr : BitVec 20} {data : BitVec 8} {s t t' : State}
    (h : frameWr c addr data s = .next t) (h' : frameWr c addr data t = .next t') : t'.SameContents t := by
  rcases frameWr_cases c addr data t with ⟨-, rejected⟩ | ⟨inside, written'⟩
  · obtain rfl := reject_next.mp (rejected.symm.trans h')
    exact t.respond_sameContents _ _
  · rcases frameWr_cases c addr data s with ⟨outside, -⟩ | ⟨-, written⟩
    · exact absurd inside outside.not_gt
    · obtain rfl := finish_next.mp (written.symm.trans h)
      obtain rfl := finish_next.mp (written'.symm.trans h')
      exact ⟨rfl, rfl, rfl, s.frame.write_write_sameReads _ _, fun _ => rfl⟩

theorem planeWr_again {c : Config} {addr : BitVec 20} {data : BitVec 8} {s t t' : State}
    (h : planeWr c addr data s = .next t) (h' : planeWr c addr data t = .next t') : t'.SameContents t := by
  rcases planeWr_cases c addr data t with ⟨-, rejected⟩ | ⟨inside, written'⟩
  · obtain rfl := reject_next.mp (rejected.symm.trans h')
    exact t.respond_sameContents _ _
  · rcases planeWr_cases c addr data s with ⟨outside, -⟩ | ⟨-, written⟩
    · exact absurd inside outside.not_gt
    · obtain rfl := finish_next.mp (written.symm.trans h)
      obtain rfl := finish_next.mp (written'.symm.trans h')
      exact ⟨rfl, rfl, rfl, fun _ => rfl, s.plane.write_write_sameReads _ _⟩

/-- An `ENCODE` that goes on has been rejected, and changed nothing, or has put the encoded planes into PLANE. -/
theorem encodeFrame_next {c : Config} {u : Bool} {nsub : BitVec 4} {s t : State} (h : encodeFrame c u nsub s = .next t) :
    (¬ (nsub = 4#4 ∧ fitsMemories c s) ∧ ∃ code, t = s.respond code 0#16) ∨
    ((nsub = 4#4 ∧ fitsMemories c s) ∧ ∃ m, encodedPlane c u s = .ok m ∧ t = (s.withPlane m).respond .ok 0#16) := by
  rcases encodeFrame_cases c u nsub s with
    ⟨other, rejected⟩ | ⟨-, large, rejected⟩ | ⟨-, -, f, -, faults⟩ | ⟨four, fits, m, encoded, answered⟩
  · exact .inl ⟨fun ⟨four, _⟩ => other four, _, reject_next.mp (rejected.symm.trans h)⟩
  · exact .inl ⟨fun ⟨_, fits⟩ => large fits, _, reject_next.mp (rejected.symm.trans h)⟩
  · cases faults.symm.trans h
  · exact .inr ⟨⟨four, fits⟩, m, encoded, finish_next.mp (answered.symm.trans h)⟩

theorem encodeFrame_again {c : Config} {u : Bool} {nsub : BitVec 4} {s t t' : State}
    (h : encodeFrame c u nsub s = .next t) (h' : encodeFrame c u nsub t = .next t') : t'.SameContents t := by
  rcases encodeFrame_next h' with ⟨-, code, rfl⟩ | ⟨accepted', m', encoded', rfl⟩
  · exact t.respond_sameContents _ _
  · rcases encodeFrame_next h with ⟨rejected, code, rfl⟩ | ⟨-, m, encoded, rfl⟩
    · exact absurd accepted' rejected
    · have again : encodedPlane c u (s.withPlane m) = .ok m' :=
        (encodedPlane_withResponses c u (s.withPlane m) _).symm.trans encoded'
      exact ⟨rfl, rfl, rfl, fun _ => rfl, encodedPlane_again encoded again⟩

/-- A command run again from where it ended: one that only reads writes nothing, one that sets a register sets it to
the same value, and the three writers of a memory find their checks decided as before. -/
theorem exec_again {i : Instr} {s t t' : State} (h : exec i s = .next t) (h' : exec i t = .next t') :
    t'.SameContents t := by
  cases i with
  | nop | blendAlpha | blendAlphaBoth | readCfg | frameRd | planeRd =>
    obtain ⟨u, status, data, writes, rfl⟩ := exec_next h'
    cases writes
    exact t.respond_sameContents _ _
  | setCmap idx val =>
    obtain rfl := finish_next.mp h
    obtain rfl := finish_next.mp h'
    exact ⟨Vector.set_set _ idx.isLt, rfl, rfl, fun _ => rfl, fun _ => rfl⟩
  | resetCmap | setWidth imm | setHeight imm =>
    obtain rfl := finish_next.mp h
    obtain rfl := finish_next.mp h'
    exact ⟨rfl, rfl, rfl, fun _ => rfl, fun _ => rfl⟩
  | encode u nsub => exact encodeFrame_again h h'
  | frameWr addr data => exact frameWr_again h h'
  | planeWr addr data => exact planeWr_again h h'

/-- Settles O53: the second run leaves the contents of the block as the first left them. -/
theorem everyCommandIsIdempotent : Obligations.EveryCommandIsIdempotent :=
  fun _ _ _ _ h h' => exec_again h h'

end Sys2Proof.Machine
end

