-- ==== Sys2Proof/Proofs/EncodingRules.lean ====
section
/-! The statements of 30_encoding.md: fields at their places (R62, R63), the rows of the opcode map (R64), the decoding
procedure (R65, R66, R68), decode and encode as inverses, what a word that is no command is answered, the one response
of every answered word (R69, R70), and the assembler with its pseudo-commands (R71, R72). -/

namespace Sys2Proof

/-! ### A field at its place (30_encoding.md R62, R63) -/

/-- A field is read back from its place. -/
@[simp] theorem extractLsb'_atBit {n : Nat} (v : BitVec n) {lo : Nat} (inside : lo + n ≤ 32) :
    (atBit v lo).extractLsb' lo n = v := by
  refine BitVec.eq_of_getLsbD_eq fun k hk => ?_
  simp [atBit, hk, show lo + k < 32 by omega]

/-- A field leaves every bit outside its place 0. -/
@[simp] theorem extractLsb'_atBit_apart {n : Nat} (v : BitVec n) {lo lo' n' : Nat}
    (apart : lo + n ≤ lo' ∨ lo' + n' ≤ lo) :
    (atBit v lo).extractLsb' lo' n' = 0#n' := by
  refine BitVec.eq_of_getLsbD_eq fun k hk => ?_
  rcases apart with below | above
  · simp [atBit, BitVec.getLsbD_of_ge v (lo' + k - lo) (by omega)]
  · simp [atBit, show lo' + k < lo by omega]

/-- A field of a word, put back at its place, is the word with every other bit cleared. -/
theorem atBit_extractLsb' (w : Word) (lo n : Nat) :
    atBit (w.extractLsb' lo n) lo = w &&& atBit (BitVec.allOnes n) lo := by
  refine BitVec.eq_of_getLsbD_eq fun k hk => ?_
  rcases lt_or_ge k lo with below | above
  · simp [atBit, below]
  · simp [atBit, above.not_gt, show lo + (k - lo) = k by omega, hk, Bool.and_comm]

/-- The one-bit field USE_CMAP as the bit vector that the encoder places. -/
theorem ofBool_useCmapField (w : Word) : BitVec.ofBool (useCmapField w) = w.extractLsb' 4 1 := by
  refine BitVec.eq_of_getLsbD_eq fun k hk => ?_
  obtain rfl : k = 0 := by omega
  simp [useCmapField]

/-- A one-bit field placed at bit 4 is that bit. -/
@[simp] theorem useCmapField_or_atBit (p : Word) (u : Bool) (n : BitVec 4) (clear : p[4] = false) :
    useCmapField (p ||| atBit (BitVec.ofBool u) 4 ||| atBit n 0) = u := by
  simp [useCmapField, atBit, clear]

/-! ### The rows of the opcode map (30_encoding.md R64) -/

/-- The opcode of each command (30_encoding.md R64). -/
def Instr.opc : Instr → BitVec 4
  | .nop => 0x0#4
  | .blendAlpha _ _ => 0x1#4
  | .blendAlphaBoth _ _ => 0x2#4
  | .setCmap _ _ => 0x3#4
  | .resetCmap => 0x4#4
  | .setWidth _ => 0x5#4
  | .setHeight _ => 0x6#4
  | .readCfg _ => 0x7#4
  | .encode _ _ => 0x8#4
  | .frameWr _ _ => 0x9#4
  | .frameRd _ => 0xA#4
  | .planeWr _ _ => 0xB#4
  | .planeRd _ => 0xC#4

/-- The reserved bits of each command's format (30_encoding.md R62, R68). -/
def Instr.reserved : Instr → Word
  | .nop => 0x0FFFFFFF#32
  | .blendAlpha _ _ => 0x0FFF0000#32
  | .blendAlphaBoth _ _ => 0x0FFF0000#32
  | .setCmap _ _ => 0x0FFFFF00#32
  | .resetCmap => 0x0FFFFFFF#32
  | .setWidth _ => 0x0FFF0000#32
  | .setHeight _ => 0x0FFF0000#32
  | .readCfg _ => 0x0FFFFF00#32
  | .encode _ _ => 0x0FFFFFE0#32
  | .frameWr _ _ => 0x00000000#32
  | .frameRd _ => 0x000000FF#32
  | .planeWr _ _ => 0x00000000#32
  | .planeRd _ => 0x000000FF#32

/-- The command of the same row as `i` whose operands are the fields of `w` (30_encoding.md R68). -/
def Instr.withFields (w : Word) : Instr → Instr
  | .nop => .nop
  | .blendAlpha _ _ => .blendAlpha (srcField w) (dstField w)
  | .blendAlphaBoth _ _ => .blendAlphaBoth (srcField w) (dstField w)
  | .setCmap _ _ => .setCmap (idxField w) (valField w)
  | .resetCmap => .resetCmap
  | .setWidth _ => .setWidth (imm16Field w)
  | .setHeight _ => .setHeight (imm16Field w)
  | .readCfg _ => .readCfg (selField w)
  | .encode _ _ => .encode (useCmapField w) (nsubField w)
  | .frameWr _ _ => .frameWr (addrField w) (dataField w)
  | .frameRd _ => .frameRd (addrField w)
  | .planeWr _ _ => .planeWr (addrField w) (dataField w)
  | .planeRd _ => .planeRd (addrField w)

/-- One command of each row, in the map's order. -/
def rowCommands : List Instr :=
  [.nop, .blendAlpha 0 0, .blendAlphaBoth 0 0, .setCmap 0 0, .resetCmap, .setWidth 0, .setHeight 0, .readCfg 0,
   .encode false 0, .frameWr 0 0, .frameRd 0, .planeWr 0 0, .planeRd 0]

theorem opcodeMap_eq : opcodeMap = rowCommands.map Instr.row := rfl

@[simp] theorem Instr.withFields_row (w : Word) (i : Instr) : (i.withFields w).row = i.row := by cases i <;> rfl

@[simp] theorem Instr.withFields_withFields (v w : Word) (i : Instr) :
    (i.withFields v).withFields w = i.withFields w := by cases i <;> rfl

theorem Instr.row_mem_opcodeMap (i : Instr) : i.row ∈ opcodeMap := by cases i <;> simp [Instr.row, opcodeMap]

/-- A row's pattern is its opcode, and 0 in every other bit. -/
theorem Instr.row_pattern (i : Instr) : i.row.pattern = atBit i.opc 28 := by
  cases i <;> simp [Instr.row, Instr.opc, atBit]

/-- A row's mask is the opcode's four bits and the reserved bits. -/
theorem Instr.row_mask (i : Instr) : i.row.mask = atBit (BitVec.allOnes 4) 28 ||| i.reserved := by
  cases i <;> simp [Instr.row, Instr.reserved, atBit]

theorem Instr.row_mask_and_reserved (i : Instr) : i.row.mask &&& i.reserved = i.reserved := by
  cases i <;> simp only [Instr.row, Instr.reserved] <;> decide

theorem Instr.row_pattern_and_reserved (i : Instr) : i.row.pattern &&& i.reserved = 0#32 := by
  cases i <;> simp [Instr.row, Instr.reserved]

theorem Instr.opcField_row_mask (i : Instr) : opcField i.row.mask = BitVec.allOnes 4 := by
  cases i <;> simp [Instr.row, opcField]

theorem Instr.opcField_row_pattern (i : Instr) : opcField i.row.pattern = i.opc := by
  rw [i.row_pattern, opcField, extractLsb'_atBit _ le_rfl]

/-- Each opcode below 13 is the opcode of a row. -/
theorem exists_opc_eq {c : BitVec 4} (defined : c.toNat < 13) : ∃ i : Instr, i.opc = c := by
  have covered : ∀ c : BitVec 4, c.toNat < 13 → ∃ i ∈ rowCommands, i.opc = c := by decide
  obtain ⟨i, -, hi⟩ := covered c defined
  exact ⟨i, hi⟩

theorem opcField_and (v w : Word) : opcField (v &&& w) = opcField v &&& opcField w := BitVec.extractLsb'_and

/-- A word matches a command's row when it has the row's opcode and its reserved bits are 0. -/
theorem Instr.matches_row_iff (i : Instr) (w : Word) :
    w &&& i.row.mask = i.row.pattern ↔ opcField w = i.opc ∧ w &&& i.reserved = 0#32 := by
  constructor
  · intro h
    constructor
    · calc opcField w = opcField (w &&& i.row.mask) := by rw [opcField_and, i.opcField_row_mask, BitVec.and_allOnes]
        _ = i.opc := by rw [h, i.opcField_row_pattern]
    · calc w &&& i.reserved = w &&& i.row.mask &&& i.reserved := by rw [BitVec.and_assoc, i.row_mask_and_reserved]
        _ = 0#32 := by rw [h, i.row_pattern_and_reserved]
  · rintro ⟨opcode, clear⟩
    calc w &&& i.row.mask = atBit (opcField w) 28 ||| (w &&& i.reserved) := by
          rw [i.row_mask, BitVec.and_or_distrib_left, opcField, atBit_extractLsb']
      _ = i.row.pattern := by rw [opcode, clear, BitVec.or_zero, i.row_pattern]

/-! ### Decoding, by rows (30_encoding.md R65, R66, R68) -/

theorem commandOf_of_opc {w : Word} {i : Instr} (h : opcField w = i.opc) :
    commandOf w = some (i.reserved, i.withFields w) := by
  unfold commandOf
  rw [h]
  cases i <;> rfl

theorem commandOf_of_reserved_opc {w : Word} (h : 13 ≤ (opcField w).toNat) : commandOf w = none := by
  unfold commandOf
  split
  case h_14 => rfl
  all_goals omega

/-- A word of a row's opcode is that row's command with the word's fields, unless a reserved bit is set. -/
theorem decode_of_opc {w : Word} {i : Instr} (h : opcField w = i.opc) :
    decode w = if w &&& i.reserved = 0#32 then .ok (i.withFields w) else .error .reservedBits := by
  unfold decode
  rw [commandOf_of_opc h]

theorem decode_of_reserved_opc {w : Word} (h : 13 ≤ (opcField w).toNat) : decode w = .error .illegalOpcode := by
  unfold decode
  rw [commandOf_of_reserved_opc h]

/-- A word that matches a command's row decodes to the command of that row with the word's fields. -/
theorem decode_of_matches {w : Word} {i : Instr} (h : w &&& i.row.mask = i.row.pattern) :
    decode w = .ok (i.withFields w) := by
  obtain ⟨opcode, clear⟩ := (i.matches_row_iff w).mp h
  rw [decode_of_opc opcode, if_pos clear]

/-- A legal word matches its command's row, and the command's operands are the word's fields. -/
theorem matches_of_decode {w : Word} {i : Instr} (h : decode w = .ok i) :
    w &&& i.row.mask = i.row.pattern ∧ i.withFields w = i := by
  rcases lt_or_ge (opcField w).toNat 13 with defined | reserved
  · obtain ⟨j, hj⟩ := exists_opc_eq defined
    rw [decode_of_opc hj.symm] at h
    split at h
    · next clear =>
      cases h
      simpa using (j.matches_row_iff w).mpr ⟨hj.symm, clear⟩
    · cases h
  · rw [decode_of_reserved_opc reserved] at h
    cases h

/-! ### Decode and encode (30_encoding.md R62, R64) -/

/-- The encoded word matches the command's row: its reserved bits are 0. -/
theorem encode_matches_row (i : Instr) : encode i &&& i.row.mask = i.row.pattern := by
  cases i with
  | nop => exact Laws.MatchesRow.nop
  | blendAlpha src dst => exact Laws.MatchesRow.blendAlpha src dst
  | blendAlphaBoth src dst => exact Laws.MatchesRow.blendAlphaBoth src dst
  | setCmap idx val => exact Laws.MatchesRow.setCmap idx val
  | resetCmap => exact Laws.MatchesRow.resetCmap
  | setWidth imm => exact Laws.MatchesRow.setWidth imm
  | setHeight imm => exact Laws.MatchesRow.setHeight imm
  | readCfg sel => exact Laws.MatchesRow.readCfg sel
  | encode u nsub => exact Laws.MatchesRow.encode u nsub
  | frameWr addr data => exact Laws.MatchesRow.frameWr addr data
  | frameRd addr => exact Laws.MatchesRow.frameRd addr
  | planeWr addr data => exact Laws.MatchesRow.planeWr addr data
  | planeRd addr => exact Laws.MatchesRow.planeRd addr

/-- The fields of a command's word are the command's operands. -/
theorem withFields_encode (i : Instr) : i.withFields (encode i) = i := by
  cases i <;>
    simp [Instr.withFields, encode, srcField, dstField, idxField, valField, imm16Field, selField, nsubField, addrField,
      dataField, BitVec.extractLsb'_or]

/-- The word of a word's fields: the row's pattern, and the word's own bits wherever the row's mask is 0. -/
theorem encode_withFields (w : Word) (i : Instr) :
    encode (i.withFields w) = i.row.pattern ||| (w &&& ~~~i.row.mask) := by
  cases i
  case nop | resetCmap => simp [Instr.withFields, encode, Instr.row]
  all_goals
    simp only [Instr.withFields, encode, Instr.row, srcField, dstField, idxField, valField, imm16Field, selField,
      nsubField, addrField, dataField, ofBool_useCmapField, atBit_extractLsb', BitVec.or_assoc,
      ← BitVec.and_or_distrib_left]
    rfl

/-- Settles O1: the word of a command matches the command's row, and its fields are the command's operands. -/
theorem decodeReadsBackEveryEncodedCommand : Obligations.DecodeReadsBackEveryEncodedCommand := by
  intro i
  rw [decode_of_matches (encode_matches_row i), withFields_encode]

/-- Settles O2: the bits under the row's mask are the row's pattern, and the others are fields. -/
theorem legalWordIsTheWordOfItsCommand : Obligations.LegalWordIsTheWordOfItsCommand := by
  intro w i h
  obtain ⟨row, fields⟩ := matches_of_decode h
  calc encode i = encode (i.withFields w) := by rw [fields]
    _ = (w &&& i.row.mask) ||| (w &&& ~~~i.row.mask) := by rw [encode_withFields, row]
    _ = w := by rw [← BitVec.and_or_distrib_left, BitVec.or_not_self, BitVec.and_allOnes]

/-! ### The opcode map (30_encoding.md R64) and the decoding procedure (R68) -/

/-- A word that matches a row of the map has the opcode of the row's pattern. -/
theorem opcField_of_mem_opcodeMap {r : OpcodeRow} (hr : r ∈ opcodeMap) {w : Word} (h : w &&& r.mask = r.pattern) :
    opcField w = opcField r.pattern := by
  rw [opcodeMap_eq] at hr
  obtain ⟨i, -, rfl⟩ := List.mem_map.mp hr
  rw [((i.matches_row_iff w).mp h).1, i.opcField_row_pattern]

/-- No two rows of the map have the same opcode. -/
theorem opcodeMap_opcodes_distinct : opcodeMap.Pairwise fun r q => opcField r.pattern ≠ opcField q.pattern := by decide

/-- A word with a reserved row's four bits has its opcode. -/
theorem opcField_of_reserved_row {w p : Word} (h : w &&& 0xF0000000#32 = p) : opcField w = opcField p := by
  rw [← h, opcField_and, show opcField 0xF0000000#32 = BitVec.allOnes 4 by decide, BitVec.and_allOnes]

/-- Settles O3: a word is legal when it matches a row; a row asks for its opcode, and no two rows share one. -/
theorem legalWordsAreThoseOfTheOpcodeMap : Obligations.LegalWordsAreThoseOfTheOpcodeMap := by
  refine ⟨fun w i h => (matches_of_decode h).1, fun w i h => ⟨i.withFields w, decode_of_matches h, i.withFields_row w⟩,
    Instr.row_mem_opcodeMap, ?_, fun w h => decode_of_reserved_opc ?_⟩
  · refine opcodeMap_opcodes_distinct.imp_of_mem fun hr hq distinct w inFirst inSecond => distinct ?_
    rw [← opcField_of_mem_opcodeMap hr inFirst, opcField_of_mem_opcodeMap hq inSecond]
  · rcases h with h | h | h <;> rw [opcField_of_reserved_row h] <;> decide

/-- Settles O4: each line of the procedure is the row of one command. -/
theorem decodingProcedureOfEveryOpcode : Obligations.DecodingProcedureOfEveryOpcode := by
  intro w
  refine ⟨decode_of_reserved_opc, ?_⟩
  show ∀ row ∈ rowCommands.map fun i => (i.opc.toNat, i.reserved, i.withFields w), _
  refine List.forall_mem_map.mpr fun i _ opcode => ?_
  exact decode_of_opc (BitVec.eq_of_toNat_eq opcode)

/-- Settles O5: seven of the words are those of their commands, one has a reserved opcode, one a reserved bit. -/
theorem wordsWrittenOutDecodeAsTheSpecSays : Obligations.WordsWrittenOutDecodeAsTheSpecSays := by
  have legal := decodeReadsBackEveryEncodedCommand
  exact ⟨legal .nop, legal (.blendAlpha 0x1F#8 0x00#8), legal (.setCmap 3#4 12#4), legal (.setWidth 128#16),
    legal (.encode true 4#4), legal (.frameWr 0xFFF#20 0xAB#8), legal (.planeRd 5#20),
    decode_of_reserved_opc (by decide), decode_of_opc (i := .encode true 4#4) (by decide)⟩

end Sys2Proof

namespace Sys2Proof.Machine

/-! ### Words that are no command (30_encoding.md R65, R66) -/

/-- A word that decodes to nothing is rejected. -/
theorem runWord_of_decode_error {w : Word} {e : DecodeError} (hw : decode w = .error e) (s : State) :
    runWord w s = reject s (statusOfDecodeError e) := by
  rcases runWord_cases w s with ⟨i, decoded, -⟩ | ⟨e', rejected, result⟩
  · rw [hw] at decoded; cases decoded
  · rw [hw] at rejected; cases rejected; exact result

/-- A step that finds a word that decodes to nothing takes it and answers with its status, and does no more. -/
theorem step_of_decode_error {s : State} {w : Word} {rest : List HostInput} {e : DecodeError}
    (hs : s.incoming = .command w :: rest) (hw : decode w = .error e) :
    step s = .next { s with
      incoming := rest, responses := s.responses ++ [responseWord (statusOfDecodeError e) 0#16] } := by
  rw [step_of_command hs, runWord_of_decode_error hw]
  rfl

/-- Settles O10: the opcode is checked first, and the word's answer is ILLEGAL_OPCODE. -/
theorem reservedOpcodeIsRejected : Obligations.ReservedOpcodeIsRejected := by
  intro s w rest hs opcode
  exact step_of_decode_error hs (decode_of_reserved_opc opcode)

/-- Settles O11: by the row of the word's opcode. -/
theorem reservedBitIsRejected : Obligations.ReservedBitIsRejected := by
  intro s w rest hs
  show ∀ row ∈ rowCommands.map fun i => (i.opc.toNat, i.reserved), _
  refine List.forall_mem_map.mpr fun i _ opcode set => ?_
  have rejected : decode w = .error .reservedBits := by
    rw [decode_of_opc (BitVec.eq_of_toNat_eq opcode), if_neg set]
  exact step_of_decode_error hs rejected

/-! ### The one response (30_encoding.md R69, R70) -/

/-- How a command can end: complete with what it writes, its DATA 0 unless it returns a result; be rejected; or fault. -/
theorem exec_ends (i : Instr) (s : State) :
    (∃ u data, Writes s i u ∧ exec i s = finish u data ∧ (returnsData i = false → data = 0#16)) ∨
    (∃ code, exec i s = reject s code) ∨ ∃ f, exec i s = .fault f := by
  cases i with
  | nop => exact .inl ⟨_, _, .nothing _, rfl, fun _ => rfl⟩
  | blendAlpha src dst => exact .inl ⟨_, _, .nothing _, rfl, nofun⟩
  | blendAlphaBoth src dst => exact .inl ⟨_, _, .nothing _, rfl, nofun⟩
  | setCmap idx val => exact .inl ⟨_, _, .cmapEntry idx val, rfl, fun _ => rfl⟩
  | resetCmap => exact .inl ⟨_, _, .cmapIdentity, rfl, fun _ => rfl⟩
  | setWidth imm => exact .inl ⟨_, _, .width imm, rfl, fun _ => rfl⟩
  | setHeight imm => exact .inl ⟨_, _, .height imm, rfl, fun _ => rfl⟩
  | readCfg sel =>
    rcases readCfg_cases Config.block sel s with ⟨v, -, answered⟩ | ⟨-, rejected⟩
    · exact .inl ⟨_, _, .nothing _, answered, nofun⟩
    · exact .inr (.inl ⟨_, rejected⟩)
  | encode u nsub =>
    rcases encodeFrame_cases Config.block u nsub s with
      ⟨-, rejected⟩ | ⟨-, -, rejected⟩ | ⟨-, -, f, -, faults⟩ | ⟨rfl, -, m, encoded, answered⟩
    · exact .inr (.inl ⟨_, rejected⟩)
    · exact .inr (.inl ⟨_, rejected⟩)
    · exact .inr (.inr ⟨f, faults⟩)
    · exact .inl ⟨_, _, .planes encoded, answered, fun _ => rfl⟩
  | frameWr addr data =>
    rcases frameWr_cases Config.block addr data s with ⟨-, rejected⟩ | ⟨-, answered⟩
    · exact .inr (.inl ⟨_, rejected⟩)
    · exact .inl ⟨_, _, .frameByte addr data, answered, fun _ => rfl⟩
  | frameRd addr =>
    rcases frameRd_cases Config.block addr s with ⟨-, rejected⟩ | ⟨-, -, faults⟩ | ⟨-, v, -, answered⟩
    · exact .inr (.inl ⟨_, rejected⟩)
    · exact .inr (.inr ⟨_, faults⟩)
    · exact .inl ⟨_, _, .nothing _, answered, nofun⟩
  | planeWr addr data =>
    rcases planeWr_cases Config.block addr data s with ⟨-, rejected⟩ | ⟨-, answered⟩
    · exact .inr (.inl ⟨_, rejected⟩)
    · exact .inl ⟨_, _, .planeByte addr data, answered, fun _ => rfl⟩
  | planeRd addr =>
    rcases planeRd_cases Config.block addr s with ⟨-, rejected⟩ | ⟨-, -, faults⟩ | ⟨-, v, -, answered⟩
    · exact .inr (.inl ⟨_, rejected⟩)
    · exact .inr (.inr ⟨_, faults⟩)
    · exact .inl ⟨_, _, .nothing _, answered, nofun⟩

/-- What a command writes is neither list of the port. -/
theorem Writes.keeps_port {s u : State} {i : Instr} (h : Writes s i u) :
    u.incoming = s.incoming ∧ u.responses = s.responses := by
  cases h <;> exact ⟨rfl, rfl⟩

/-- Everything a command word that is answered can do: complete its command, or be rejected. -/
theorem runWord_next {w : Word} {s t : State} (h : runWord w s = .next t) :
    (∃ i u data, decode w = .ok i ∧ Writes s i u ∧ t = u.respond .ok data ∧ (returnsData i = false → data = 0#16)) ∨
    ∃ code, t = s.respond code 0#16 := by
  rcases runWord_cases w s with ⟨i, decoded, runs⟩ | ⟨e, -, rejected⟩
  · rw [runs] at h
    rcases exec_ends i s with ⟨u, data, writes, completes, noData⟩ | ⟨code, rejected⟩ | ⟨f, faults⟩
    · rw [completes] at h
      exact .inl ⟨i, u, data, decoded, writes, finish_next.mp h, noData⟩
    · rw [rejected] at h
      exact .inr ⟨code, reject_next.mp h⟩
    · rw [faults] at h
      cases h
  · rw [rejected] at h
    exact .inr ⟨_, reject_next.mp h⟩

/-- Settles O12: the word is taken off the port, and its command completes or the word is rejected, with one response
either way. -/
theorem everyCommandWordGetsOneResponse : Obligations.EveryCommandWordGetsOneResponse := by
  intro s t w rest hs h
  rw [step_of_command hs] at h
  rcases runWord_next h with ⟨i, u, data, decoded, writes, rfl, noData⟩ | ⟨code, rfl⟩
  · obtain ⟨incoming, responses⟩ := writes.keeps_port
    refine ⟨by simp [incoming], by simp [State.place, responses], responseWord .ok data, by simp [responses],
      responseFormat_ok data, fun noResult => ?_⟩
    rw [responseWord_data, noData (noResult i decoded)]
  · exact ⟨rfl, place_respond _ _ _, responseWord code 0#16, rfl, responseFormat_reject code,
      fun _ => responseWord_data code 0#16⟩

end Sys2Proof.Machine

namespace Sys2Proof

/-! ### The assembler (30_encoding.md R71) -/

/-- The word of a line, from its operands as numbers (30_encoding.md R71). -/
def Asm.wordValue : Asm → Nat
  | .nop => 0x00000000
  | .alpha src dst => 0x10000000 ||| src <<< 8 ||| dst
  | .alphaboth src dst => 0x20000000 ||| src <<< 8 ||| dst
  | .setcmap idx val => 0x30000000 ||| idx <<< 4 ||| val
  | .resetcmap => 0x40000000
  | .setw imm => 0x50000000 ||| imm
  | .seth imm => 0x60000000 ||| imm
  | .rdcfg sel => 0x70000000 ||| sel
  | .encode nsub false => 0x80000000 ||| nsub
  | .encode nsub true => 0x80000010 ||| nsub
  | .fwr addr data => 0x90000000 ||| addr <<< 8 ||| data
  | .frd addr => 0xA0000000 ||| addr <<< 8
  | .pwr addr data => 0xB0000000 ||| addr <<< 8 ||| data
  | .prd addr => 0xC0000000 ||| addr <<< 8

theorem fitsField_of_lt {m a : Nat} (h : a < 2 ^ m) : fitsField m a = true := decide_eq_true h

theorem fitsField_of_ge {m a : Nat} (h : 2 ^ m ≤ a) : fitsField m a = false := decide_eq_false h.not_gt

theorem fitsField_both {m n a b : Nat} (ha : a < 2 ^ m) (hb : b < 2 ^ n) : (fitsField m a && fitsField n b) = true := by
  rw [fitsField_of_lt ha, fitsField_of_lt hb, Bool.and_self]

theorem fitsField_not_both {m n a b : Nat} (h : 2 ^ m ≤ a ∨ 2 ^ n ≤ b) : (fitsField m a && fitsField n b) = false := by
  rcases h with h | h
  · rw [fitsField_of_ge h, Bool.false_and]
  · rw [fitsField_of_ge h, Bool.and_false]

/-- A number that fits its width, widened or cut to `k` bits and placed, is the number shifted. -/
theorem setWidth_ofNat_shiftLeft {m a : Nat} (fits : a < 2 ^ m) (k lo : Nat) :
    (BitVec.ofNat m a).setWidth k <<< lo = BitVec.ofNat k (a <<< lo) := by
  refine BitVec.eq_of_toNat_eq ?_
  simp [Nat.mod_eq_of_lt fits, Nat.shiftLeft_eq]

/-- A word of one field, as a number. -/
theorem or_atBit_ofNat {m a : Nat} (p lo : Nat) (fits : fitsField m a = true) :
    BitVec.ofNat 32 p ||| atBit (BitVec.ofNat m a) lo = BitVec.ofNat 32 (p ||| a <<< lo) := by
  rw [atBit, setWidth_ofNat_shiftLeft (of_decide_eq_true fits), BitVec.ofNat_or]

/-- A word of two fields, as a number. -/
theorem or_atBit_or_atBit_ofNat {m n a b : Nat} (p lo : Nat) (fits : (fitsField m a && fitsField n b) = true) :
    BitVec.ofNat 32 p ||| atBit (BitVec.ofNat m a) lo ||| atBit (BitVec.ofNat n b) 0 =
      BitVec.ofNat 32 (p ||| a <<< lo ||| b) := by
  obtain ⟨ha, hb⟩ := Bool.and_eq_true_iff.mp fits
  rw [or_atBit_ofNat p lo ha, or_atBit_ofNat _ 0 hb, Nat.shiftLeft_zero]

/-- A line whose operands all fit assembles to its word. -/
theorem Asm.assemble_of_wellFormed {a : Asm} (h : a.wellFormed = true) :
    a.assemble = some (BitVec.ofNat 32 a.wordValue) := by
  unfold Asm.assemble Asm.toInstr
  rw [if_pos h, Option.map_some]
  congr 1
  cases a with
  | nop => rfl
  | alpha src dst => exact or_atBit_or_atBit_ofNat _ 8 h
  | alphaboth src dst => exact or_atBit_or_atBit_ofNat _ 8 h
  | setcmap idx val => exact or_atBit_or_atBit_ofNat _ 4 h
  | resetcmap => rfl
  | setw imm => exact or_atBit_ofNat _ 0 h
  | seth imm => exact or_atBit_ofNat _ 0 h
  | rdcfg sel => exact or_atBit_ofNat _ 0 h
  | encode nsub cmap =>
    cases cmap with
    | false => exact or_atBit_ofNat 0x80000000 0 h
    | true => exact or_atBit_ofNat 0x80000010 0 h
  | fwr addr data => exact or_atBit_or_atBit_ofNat _ 8 h
  | frd addr => exact or_atBit_ofNat _ 8 h
  | pwr addr data => exact or_atBit_or_atBit_ofNat _ 8 h
  | prd addr => exact or_atBit_ofNat _ 8 h

/-- A line with an operand that does not fit is refused. -/
theorem Asm.assemble_of_not_wellFormed {a : Asm} (h : a.wellFormed = false) : a.assemble = none := by
  unfold Asm.assemble Asm.toInstr
  rw [if_neg (by simp [h]), Option.map_none]

/-- Settles O6: form by form, a line is refused or assembled as its operands fit or not. -/
theorem assemblerWordsAndRefusals : Obligations.AssemblerWordsAndRefusals := by
  have refused {a : Asm} := Asm.assemble_of_not_wellFormed (a := a)
  have assembled {a : Asm} := Asm.assemble_of_wellFormed (a := a)
  exact ⟨
    -- refusals: the two blends, setcmap, the two dimensions, rdcfg, encode, the two writes, the two reads
    fun _ _ h => ⟨refused (fitsField_not_both h), refused (fitsField_not_both h)⟩,
    fun _ _ h => refused (fitsField_not_both h),
    fun _ h => ⟨refused (fitsField_of_ge h), refused (fitsField_of_ge h)⟩,
    fun _ h => refused (fitsField_of_ge h),
    fun _ _ h => refused (fitsField_of_ge h),
    fun _ _ h => ⟨refused (fitsField_not_both h), refused (fitsField_not_both h)⟩,
    fun _ h => ⟨refused (fitsField_of_ge h), refused (fitsField_of_ge h)⟩,
    -- words: the forms without operands, then the others in the same order
    assembled rfl, assembled rfl,
    fun _ _ ha hb => ⟨assembled (fitsField_both ha hb), assembled (fitsField_both ha hb)⟩,
    fun _ _ ha hb => assembled (fitsField_both ha hb),
    fun _ h => ⟨assembled (fitsField_of_lt h), assembled (fitsField_of_lt h)⟩,
    fun _ h => assembled (fitsField_of_lt h),
    fun _ h => ⟨assembled (fitsField_of_lt h), assembled (fitsField_of_lt h)⟩,
    fun _ _ ha hb => ⟨assembled (fitsField_both ha hb), assembled (fitsField_both ha hb)⟩,
    fun _ h => ⟨assembled (fitsField_of_lt h), assembled (fitsField_of_lt h)⟩⟩

/-! ### Pseudo-commands (30_encoding.md R72) -/

/-- Lines that all fit assemble, each to its word. -/
theorem assembleAll_of_wellFormed {lines : List Asm} (h : ∀ a ∈ lines, a.wellFormed = true) :
    assembleAll lines = some (lines.map fun a => BitVec.ofNat 32 a.wordValue) := by
  induction lines with
  | nil => rfl
  | cons a rest ih =>
    obtain ⟨first, others⟩ := List.forall_mem_cons.mp h
    simp [assembleAll, Asm.assemble_of_wellFormed first, ih others]

/-- A pseudo-command of the right shape whose lines all fit assembles to their words. -/
theorem Pseudo.assemble_of_wellFormed {p : Pseudo} (shape : p.wellFormed = true)
    (h : ∀ a ∈ p.expand, a.wellFormed = true) :
    p.assemble = some (p.expand.map fun a => BitVec.ofNat 32 a.wordValue) := by
  rw [Pseudo.assemble, if_pos shape, assembleAll_of_wellFormed h]

/-- Lines made of a list's values, one each, with an index that counts up from `k`. -/
theorem lines_eq_map_range {line : Nat → Nat → Asm} {lines : Nat → List Nat → List Asm} (nil : ∀ k, lines k [] = [])
    (cons : ∀ k v vs, lines k (v :: vs) = line k v :: lines (k + 1) vs) (k : Nat) (vs : List Nat) :
    lines k vs = (List.range vs.length).map fun i => line (k + i) (vs.getD i 0) := by
  induction vs generalizing k with
  | nil => exact nil k
  | cons v vs ih =>
    rw [cons, ih, List.length_cons, List.range_succ_eq_map, List.map_cons, List.map_map]
    simp [Function.comp_def, Nat.add_assoc, Nat.add_comm 1]

theorem loadcmapLines_eq (k : Nat) (vs : List Nat) :
    loadcmapLines k vs = (List.range vs.length).map fun i => .setcmap (k + i) (vs.getD i 0) :=
  lines_eq_map_range (fun _ => rfl) (fun _ _ _ => rfl) k vs

theorem fwrsLines_eq (k : Nat) (bs : List Nat) :
    fwrsLines k bs = (List.range bs.length).map fun i => .fwr (k + i) (bs.getD i 0) :=
  lines_eq_map_range (fun _ => rfl) (fun _ _ _ => rfl) k bs

/-- A bound on every value of a list bounds the value read at an index of the list. -/
theorem getD_lt_of_forall_lt {vs : List Nat} {bound i : Nat} (h : ∀ v ∈ vs, v < bound) (hi : i < vs.length) :
    vs.getD i 0 < bound := by
  rw [List.getD_eq_getElem vs 0 hi]
  exact h _ (List.getElem_mem hi)

/-- `loadcmap`: sixteen `setcmap` lines. -/
theorem assemble_loadcmap {vs : List Nat} (count : vs.length = 16) (fits : ∀ v ∈ vs, v < 2 ^ 4) :
    (Pseudo.loadcmap vs).assemble =
      some ((List.range 16).map fun i => BitVec.ofNat 32 (0x30000000 ||| i <<< 4 ||| vs.getD i 0)) := by
  have expansion : (Pseudo.loadcmap vs).expand = (List.range 16).map fun i => .setcmap i (vs.getD i 0) := by
    rw [Pseudo.expand, loadcmapLines_eq, count]
    simp only [Nat.zero_add]
  rw [Pseudo.assemble_of_wellFormed (p := .loadcmap vs) (beq_iff_eq.mpr count), expansion, List.map_map]
  · rfl
  · rw [expansion]
    refine List.forall_mem_map.mpr fun i hi => ?_
    have inside : i < 16 := List.mem_range.mp hi
    exact fitsField_both inside (getD_lt_of_forall_lt fits (count.symm ▸ inside))

/-- `fwrs`: one `fwr` line for each byte, at addresses that count up. -/
theorem assemble_fwrs {addr : Nat} {bs : List Nat} (some_byte : bs ≠ []) (inside : addr + bs.length ≤ 2 ^ 20)
    (fits : ∀ b ∈ bs, b < 2 ^ 8) : (Pseudo.fwrs addr bs).assemble =
      some ((List.range bs.length).map fun i => BitVec.ofNat 32 (0x90000000 ||| (addr + i) <<< 8 ||| bs.getD i 0)) := by
  have expansion : (Pseudo.fwrs addr bs).expand = _ := fwrsLines_eq addr bs
  rw [Pseudo.assemble_of_wellFormed (by simpa [Pseudo.wellFormed] using some_byte), expansion, List.map_map]
  · rfl
  · rw [expansion]
    refine List.forall_mem_map.mpr fun i hi => ?_
    have index : i < bs.length := List.mem_range.mp hi
    exact fitsField_both (by omega) (getD_lt_of_forall_lt fits index)

/-- An index is its low byte and what stands above it. -/
theorem bytes_of_index (idx : Nat) : (idx >>> 8) <<< 8 ||| (idx &&& 0xFF) = idx := by
  have low : idx &&& 0xFF = idx % 2 ^ 8 := Nat.and_two_pow_sub_one_eq_mod idx 8
  rw [low, ← Nat.shiftLeft_add_eq_or_of_lt (Nat.mod_lt _ (by decide)), Nat.shiftRight_eq_div_pow, Nat.shiftLeft_eq,
    Nat.div_add_mod']

theorem high_byte_lt {idx : Nat} (h : idx < 2 ^ 16) : idx >>> 8 < 2 ^ 8 := by
  rw [Nat.shiftRight_eq_div_pow]; omega

theorem low_byte_lt (idx : Nat) : idx &&& 0xFF < 2 ^ 8 := Nat.and_lt_two_pow idx (by decide)

/-- The word of `lutrd`'s one line: the opcode of `alphaboth` and the index. -/
theorem wordValue_lutrd (idx : Nat) : (Asm.alphaboth (idx >>> 8) (idx &&& 0xFF)).wordValue = 0x20000000 ||| idx := by
  rw [Asm.wordValue, Nat.lor_assoc, bytes_of_index]

end Sys2Proof

namespace Sys2Proof.Machine

/-- The word that `lutrd` assembles to is that of `BLEND_ALPHABOTH` on the index's two bytes. -/
theorem encode_lutrd {idx : Nat} (h : idx < 2 ^ 16) :
    encode (.blendAlphaBoth (BitVec.ofNat 8 (idx >>> 8)) (BitVec.ofNat 8 (idx &&& 0xFF))) =
      BitVec.ofNat 32 (0x20000000 ||| idx) := by
  rw [← wordValue_lutrd]
  exact or_atBit_or_atBit_ofNat _ 8 (fitsField_both (high_byte_lt h) (low_byte_lt idx))

/-- The table's index of the two bytes is the index (40_alpha_blend_lut.md R80). -/
theorem lutIndex_bytes {idx : Nat} (h : idx < 2 ^ 16) :
    lutIndex (BitVec.ofNat 8 (idx >>> 8)) (BitVec.ofNat 8 (idx &&& 0xFF)) = BitVec.ofNat 16 idx := by
  rw [lutIndex, setWidth_ofNat_shiftLeft (high_byte_lt h),
    BitVec.setWidth_ofNat_of_le_of_lt (by decide) (low_byte_lt idx), ← BitVec.ofNat_or, bytes_of_index]

/-- The response of a byte read: the byte, zero-extended to the word. -/
theorem responseWord_ok_byte (v : Byte) : responseWord .ok (v.setWidth 16) = v.setWidth 32 := by
  simp [responseWord, Status.code, atBit]

/-- `lutrd` reads the table at its index (40_alpha_blend_lut.md R85). -/
theorem runWord_lutrd {idx : Nat} (h : idx < 2 ^ 16) (s : State) :
    runWord (BitVec.ofNat 32 (0x20000000 ||| idx)) s =
      .next { s with responses := s.responses ++ [(lut .binary64 (BitVec.ofNat 16 idx)).setWidth 32] } := by
  rw [← encode_lutrd h, runWord_of_decode (decodeReadsBackEveryEncodedCommand _), ← responseWord_ok_byte,
    ← lutIndex_bytes h]
  rfl

/-- Settles O7: each pseudo-command's lines, and `lutrd`'s word as a raw read of the table. -/
theorem pseudoCommandExpansions : Obligations.PseudoCommandExpansions := by
  refine ⟨fun idx h => ⟨?_, runWord_lutrd h⟩, fun w v hw hv => ?_, fun vs => assemble_loadcmap,
    fun addr bs => assemble_fwrs, rfl, rfl⟩
  · rw [← wordValue_lutrd]
    refine Pseudo.assemble_of_wellFormed rfl (List.forall_mem_singleton.mpr ?_)
    exact fitsField_both (high_byte_lt h) (low_byte_lt idx)
  · refine Pseudo.assemble_of_wellFormed rfl ?_
    exact List.forall_mem_cons.mpr ⟨fitsField_of_lt hw, List.forall_mem_singleton.mpr (fitsField_of_lt hv)⟩

end Sys2Proof.Machine
end

section
/-! The statements of 40_alpha_blend_lut.md: each setting's dot against the exact one (R81 to R83), the entries of the
table and their two lanes (R80, R88), the laws of the table (R86, R87), and the two blend commands (R84, R85). -/

namespace Sys2Proof.Machine

/-! ### The two lanes of a pixel byte (40_alpha_blend_lut.md R88) -/

theorem dot_toNat (p : Byte) : (dot p).toNat = p.toNat % 16 := by
  simp [dot]

theorem alpha_toNat (p : Byte) : (alpha p).toNat = p.toNat / 16 := by
  simp only [alpha, BitVec.extractLsb'_toNat, Nat.shiftRight_eq_div_pow]
  omega

/-- A byte is its two lanes. -/
theorem toNat_eq_lanes (p : Byte) : p.toNat = 16 * (alpha p).toNat + (dot p).toNat := by
  rw [alpha_toNat, dot_toNat, Nat.div_add_mod]

theorem eq_of_lanes {p q : Byte} (halpha : alpha p = alpha q) (hdot : dot p = dot q) : p = q := by
  apply BitVec.eq_of_toNat_eq
  rw [toNat_eq_lanes p, toNat_eq_lanes q, halpha, hdot]

theorem alpha_mask_high : alpha 0xF0#8 = BitVec.allOnes 4 := rfl

theorem alpha_mask_low : alpha 0x0F#8 = 0#4 := rfl

theorem dot_mask_high : dot 0xF0#8 = 0#4 := rfl

theorem dot_mask_low : dot 0x0F#8 = BitVec.allOnes 4 := rfl

theorem alpha_or (p q : Byte) : alpha (p ||| q) = alpha p ||| alpha q := BitVec.extractLsb'_or

theorem alpha_and (p q : Byte) : alpha (p &&& q) = alpha p &&& alpha q := BitVec.extractLsb'_and

theorem dot_or (p q : Byte) : dot (p ||| q) = dot p ||| dot q := BitVec.extractLsb'_or

theorem dot_and (p q : Byte) : dot (p &&& q) = dot p &&& dot q := BitVec.extractLsb'_and

/-- Forcing the alpha to 15 for the lookup keeps the dot (40_alpha_blend_lut.md R84). -/
@[simp] theorem dot_forceAlpha (d : Byte) : dot (d ||| 0xF0#8) = dot d := by
  rw [dot_or, dot_mask_high, BitVec.or_zero]

@[simp] theorem alpha_forceAlpha (d : Byte) : alpha (d ||| 0xF0#8) = 15#4 := by
  rw [alpha_or, alpha_mask_high, BitVec.or_allOnes]
  rfl

/-- The byte that takes its alpha from `d` and its dot from `e` (40_alpha_blend_lut.md R84). -/
@[simp] theorem alpha_joinLanes (d e : Byte) : alpha ((d &&& 0xF0#8) ||| (e &&& 0x0F#8)) = alpha d := by
  rw [alpha_or, alpha_and, alpha_and, alpha_mask_high, alpha_mask_low, BitVec.and_allOnes, BitVec.and_zero,
    BitVec.or_zero]

@[simp] theorem dot_joinLanes (d e : Byte) : dot ((d &&& 0xF0#8) ||| (e &&& 0x0F#8)) = dot e := by
  rw [dot_or, dot_and, dot_and, dot_mask_high, dot_mask_low, BitVec.and_allOnes, BitVec.and_zero, BitVec.zero_or]

/-! ### How far a rounded value lies from its quotient (00_scope.md R8) -/

/-- The rational a rounded value stands for. -/
def Rounded.val (r : Rounded) : ℚ := r.sig / 2 ^ r.scale

/-- The floor of a rounded value that lies between two neighbouring naturals. -/
theorem Rounded.floor_eq {r : Rounded} {k : Nat} (lower : (k : ℚ) ≤ r.val) (upper : r.val < k + 1) :
    r.sig / 2 ^ r.scale = k := by
  rw [Rounded.val, le_div_iff₀ (by positivity)] at lower
  rw [Rounded.val, div_lt_iff₀ (by positivity)] at upper
  exact Nat.div_eq_of_lt_le (mod_cast lower) (mod_cast upper)

/-- `roundHalfEven_error_le` in the rationals. -/
theorem roundHalfEven_error_rat (a : Nat) {b : Nat} (hb : 0 < b) : 2 * |(roundHalfEven a b * b : ℚ) - a| ≤ b := by
  have half : ((2 * ((roundHalfEven a b * b : Int) - a).natAbs : Nat) : ℚ) ≤ b := mod_cast roundHalfEven_error_le a hb
  rw [Nat.cast_mul, Nat.cast_natAbs] at half
  exact_mod_cast half

/-- Half of a unit in the last place, relative to the value: a significand of `p` bits is off by `2 ^ -p` of the
quotient at most. -/
theorem roundTo_error {p num den : Nat} (hp : 1 ≤ p) (hden : 1 ≤ den) (hlt : num < den * 2 ^ (p - 1)) :
    |(roundTo p num den).val - num / den| ≤ num / den / 2 ^ p := by
  rcases Nat.eq_zero_or_pos num with rfl | hnum
  · simp [roundTo, Rounded.val]
  have binade : (den * 2 ^ (p - 1) : ℚ) ≤ num * 2 ^ roundScale p num den :=
    mod_cast (roundScale_spec hp hnum hden hlt).1
  have half := roundHalfEven_error_rat (num * 2 ^ roundScale p num den) hden
  rw [roundTo_of_pos p den hnum, Rounded.val]
  dsimp only
  generalize roundScale p num den = scale at binade half ⊢
  generalize roundHalfEven (num * 2 ^ scale) den = sig at half ⊢
  push_cast at half
  have denPos : (0 : ℚ) < den := mod_cast hden
  have common : (sig / 2 ^ scale - num / den : ℚ) = (sig * den - num * 2 ^ scale) / (den * 2 ^ scale) := by
    field_simp
  rw [common, abs_div, abs_of_pos (show (0 : ℚ) < den * 2 ^ scale by positivity), div_div,
    div_le_div_iff₀ (by positivity) (by positivity)]
  calc |(sig * den - num * 2 ^ scale : ℚ)| * (den * 2 ^ p)
      = 2 * |(sig * den - num * 2 ^ scale : ℚ)| * (den * 2 ^ (p - 1)) := by
        rw [← mul_pow_sub_one (show p ≠ 0 by omega) (2 : ℚ)]; ring
    _ ≤ den * (num * 2 ^ scale) := mul_le_mul half binade (by positivity) denPos.le
    _ = num * (den * 2 ^ scale) := by ring

/-- At 24 bits or more, and for the quotients of 40_alpha_blend_lut.md R81, which are small. -/
theorem roundTo_near {p num den : Nat} {q : ℚ} (hp : 24 ≤ p) (hden : 1 ≤ den) (hq : (num / den : ℚ) = q)
    (small : q ≤ 64) : q - q / 2 ^ 24 ≤ (roundTo p num den).val ∧ (roundTo p num den).val ≤ q + q / 2 ^ 24 := by
  have denPos : (0 : ℚ) < den := mod_cast hden
  have qNonneg : 0 ≤ q := by rw [← hq]; positivity
  have numLe : num ≤ den * 64 := by
    rw [← hq, div_le_iff₀ denPos] at small
    rw [mul_comm]; exact_mod_cast small
  have room : den * 64 < den * 2 ^ (p - 1) :=
    Nat.mul_lt_mul_of_pos_left (show 2 ^ 6 < 2 ^ (p - 1) from Nat.pow_lt_pow_right (by decide) (by omega)) hden
  have error := roundTo_error (by omega) hden (numLe.trans_lt room)
  rw [hq] at error
  have width : q / 2 ^ p ≤ q / 2 ^ 24 :=
    div_le_div_of_nonneg_left qNonneg (by positivity) (pow_le_pow_right₀ (by norm_num) hp)
  obtain ⟨lower, upper⟩ := abs_le.mp (error.trans width)
  constructor <;> linarith

/-- The sum of two rounded values, over their common denominator. -/
theorem Rounded.add_val (i j : Rounded) :
    ((i.sig * 2 ^ j.scale + j.sig * 2 ^ i.scale : Nat) / (2 ^ (i.scale + j.scale) : Nat) : ℚ) = i.val + j.val := by
  simp only [Rounded.val]
  push_cast
  rw [pow_add]
  field_simp

theorem Rounded.mul_val (t : Rounded) : ((t.sig * 15 : Nat) / (2 ^ t.scale : Nat) : ℚ) = t.val * 15 := by
  simp only [Rounded.val]
  push_cast
  ring

/-- The four steps of 40_alpha_blend_lut.md R81 end less than 1/225 from the exact value, at 24 bits or more. -/
theorem dotOfTerms_near {p x y : Nat} (hp : 24 ≤ p) (hx : x ≤ 225) (hy : y ≤ 3375) :
    ∃ m : Rounded, dotOfTerms p x y = m.sig / 2 ^ m.scale ∧
      ((15 * x + y : Nat) - 1 : ℚ) / 225 < m.val ∧ m.val < ((15 * x + y : Nat) + 1 : ℚ) / 225 := by
  have hx' : (x : ℚ) ≤ 225 := mod_cast hx
  have hy' : (y : ℚ) ≤ 3375 := mod_cast hy
  refine ⟨_, rfl, ?_⟩
  have hi := roundTo_near (q := x / 225) hp (show 1 ≤ 225 by decide) (by norm_cast) (by linarith)
  have hj := roundTo_near (q := y / 3375) hp (show 1 ≤ 3375 by decide) (by norm_cast) (by linarith)
  generalize roundTo p x 225 = i at hi ⊢
  generalize roundTo p y 3375 = j at hj ⊢
  have ht := roundTo_near hp Nat.one_le_two_pow (Rounded.add_val i j) (by linarith)
  generalize roundTo p _ (2 ^ (i.scale + j.scale)) = t at ht ⊢
  have hm := roundTo_near hp Nat.one_le_two_pow (Rounded.mul_val t) (by linarith)
  generalize roundTo p _ (2 ^ t.scale) = m at hm ⊢
  push_cast
  constructor <;> linarith

/-- Where the exact value is no natural, it lies at least 1/225 from every natural, and no rounding of 24 bits or more
changes the floor. -/
theorem dotOfTerms_of_not_dvd {p x y : Nat} (hp : 24 ≤ p) (hx : x ≤ 225) (hy : y ≤ 3375)
    (no : ¬ 225 ∣ 15 * x + y) : dotOfTerms p x y = (15 * x + y) / 225 := by
  obtain ⟨m, result, lower, upper⟩ := dotOfTerms_near hp hx hy
  generalize 15 * x + y = n at no lower upper ⊢
  have above : n / 225 * 225 + 1 ≤ n := by omega
  have below : n + 1 ≤ (n / 225 + 1) * 225 := by omega
  have above' : ((n / 225 : Nat) * 225 + 1 : ℚ) ≤ n := mod_cast above
  have below' : (n + 1 : ℚ) ≤ ((n / 225 : Nat) + 1) * 225 := mod_cast below
  rw [result]
  exact Rounded.floor_eq (by linarith) (by linarith)

/-! ### The terms of a pair (40_alpha_blend_lut.md R82) -/

/-- The numerator of the exact dot over 225 (40_alpha_blend_lut.md R82). -/
def exactNumerator (s d : Byte) : Nat :=
  15 * (dot s).toNat * (alpha s).toNat + (dot d).toNat * (alpha d).toNat * (15 - (alpha s).toNat)

theorem dotExact_eq (s d : Byte) : dotExact s d = exactNumerator s d / 225 := rfl

theorem exactNumerator_eq_terms (s d : Byte) : exactNumerator s d = 15 * srcTerm s + dstTerm s d := by
  rw [exactNumerator, srcTerm, dstTerm, Nat.mul_assoc 15]

theorem lane_le (v : BitVec 4) : v.toNat ≤ 15 := Nat.le_of_lt_succ v.isLt

theorem srcTerm_le (s : Byte) : srcTerm s ≤ 15 * (alpha s).toNat := Nat.mul_le_mul_right _ (lane_le _)

theorem laneProduct_le (d : Byte) : (dot d).toNat * (alpha d).toNat ≤ 225 :=
  Nat.mul_le_mul (lane_le _) (lane_le _)

theorem dstTerm_le (s d : Byte) : dstTerm s d ≤ 225 * (15 - (alpha s).toNat) :=
  Nat.mul_le_mul_right _ (laneProduct_le d)

theorem exactNumerator_le (s d : Byte) : exactNumerator s d ≤ 3375 := by
  have hx := srcTerm_le s
  have hy := dstTerm_le s d
  have ha := lane_le (alpha s)
  rw [exactNumerator_eq_terms]
  omega

theorem dotExact_le (s d : Byte) : dotExact s d ≤ 15 := by
  have bound := exactNumerator_le s d
  rw [dotExact_eq]
  omega

/-- Settles O21: the sum of the two terms' bounds is 3375. -/
theorem exactDotIsBoundedByFifteen : Obligations.ExactDotIsBoundedByFifteen := by
  intro s d
  exact ⟨rfl, exactNumerator_le s d, dotExact_le s d, lut_exact s d⟩

/-! ### The pairs of an exception set (40_alpha_blend_lut.md, appendix A) -/

/-- The destination bytes listed for a source byte. -/
def PairSet.row (set : PairSet) (s : Nat) : List Nat := (set.filter fun row => row.1 == s).flatMap (·.2)

theorem PairSet.has_iff_mem_row {set : PairSet} {s d : Byte} : set.has s d = true ↔ d.toNat ∈ set.row s.toNat := by
  simp [PairSet.has, PairSet.row, and_assoc]

/-- A fact of every listed pair is a fact of every pair the set has. -/
theorem PairSet.forall_has {set : PairSet} {P : Byte → Byte → Prop}
    (listed : ∀ row ∈ set, ∀ b ∈ row.2, P (BitVec.ofNat 8 row.1) (BitVec.ofNat 8 b)) {s d : Byte}
    (h : set.has s d = true) : P s d := by
  simp only [PairSet.has, List.any_eq_true, Bool.and_eq_true, beq_iff_eq] at h
  obtain ⟨row, inSet, source, b, inRow, destination⟩ := h
  have pair := listed row inSet b inRow
  rwa [source, destination, BitVec.ofNat_toNat, BitVec.ofNat_toNat, BitVec.setWidth_eq, BitVec.setWidth_eq] at pair

/-- What every pair of an exception set is: its exact value is a natural (40_alpha_blend_lut.md R83), and neither of its
terms is 0. -/
abbrev exceptional (s d : Byte) : Prop := 225 ∣ exactNumerator s d ∧ srcTerm s ≠ 0 ∧ dstTerm s d ≠ 0

theorem exceptional_of_e64 {s d : Byte} (h : e64.has s d = true) : exceptional s d :=
  PairSet.forall_has (by decide +kernel) h

theorem exceptional_of_e32 {s d : Byte} (h : e32.has s d = true) : exceptional s d :=
  PairSet.forall_has (by decide +kernel) h

theorem exceptional_of_ex87 {s d : Byte} (h : ex87.has s d = true) : exceptional s d :=
  PairSet.forall_has (by decide +kernel) h

/-! ### Where the exact value is a natural (40_alpha_blend_lut.md R81, R83)

Whether rounding falls below a natural has no closed form, so the pairs with a natural exact value are gone through:
by the source's two lanes, the natural, and the divisors of what is left for the destination. A pair with a zero term
needs no more than its natural. -/

/-- The bytes whose two lanes have the product `q`, for `q > 0`; there are none beyond 225, and no division is tried
there. -/
def bytesOfProduct (q : Nat) : List Nat :=
  if q ≤ 225 then
    (List.range 16).filterMap fun a => if q % a = 0 ∧ q / a < 16 then some (16 * a + q / a) else none
  else []

theorem mem_bytesOfProduct {d : Byte} (hq : (dot d).toNat * (alpha d).toNat ≠ 0) :
    d.toNat ∈ bytesOfProduct ((dot d).toNat * (alpha d).toNat) := by
  have quotient : (dot d).toNat * (alpha d).toNat / (alpha d).toNat = (dot d).toNat :=
    Nat.mul_div_cancel _ (Nat.pos_of_ne_zero (right_ne_zero_of_mul hq))
  rw [bytesOfProduct, if_pos (laneProduct_le d), List.mem_filterMap]
  refine ⟨(alpha d).toNat, List.mem_range.mpr (alpha d).isLt, ?_⟩
  rw [quotient, if_pos ⟨Nat.mul_mod_left _ _, (dot d).isLt⟩, ← toNat_eq_lanes]

/-- At the source byte with alpha `a` and dot `u`, and every destination byte for which the exact value is `k` and no
term is 0, the rounded dot is `k` less one where the pair is listed. -/
def agreesAtNatural (p : Nat) (set : PairSet) (a u k : Nat) : Bool :=
  match u * a, 225 * k - 15 * (u * a) with
  | 0, _ => true
  | _, 0 => true
  | x + 1, y + 1 =>
    if (y + 1) % (15 - a) = 0 then
      (bytesOfProduct ((y + 1) / (15 - a))).all fun d =>
        dotOfTerms p (x + 1) (y + 1) + (if (set.row (16 * a + u)).elem d then 1 else 0) == k
    else true

theorem agreesAtNatural_iff {p : Nat} {set : PairSet} {a u k x y : Nat} (hx : u * a = x) (hy : 225 * k - 15 * x = y)
    (hx0 : x ≠ 0) (hy0 : y ≠ 0) (hdvd : y % (15 - a) = 0) :
    agreesAtNatural p set a u k = true ↔ ∀ d ∈ bytesOfProduct (y / (15 - a)),
      dotOfTerms p x y + (if d ∈ set.row (16 * a + u) then 1 else 0) = k := by
  obtain ⟨x, rfl⟩ := Nat.exists_eq_succ_of_ne_zero hx0
  obtain ⟨y, rfl⟩ := Nat.exists_eq_succ_of_ne_zero hy0
  rw [agreesAtNatural, hx, hy]
  simp [hdvd]

/-- The finite part of a setting's integer form. -/
structure NaturalCases (p : Nat) (set : PairSet) : Prop where
  zeroTerm : ∀ k < 16, dotOfTerms p (15 * k) 0 = k ∧ dotOfTerms p 0 (225 * k) = k
  nonzeroTerms : ∀ a < 15, ∀ u < 16, ∀ k < 16, agreesAtNatural p set a u k = true

theorem naturalCases_binary64 : NaturalCases 53 e64 := ⟨by decide +kernel, by decide +kernel⟩

theorem naturalCases_binary32 : NaturalCases 24 e32 := ⟨by decide +kernel, by decide +kernel⟩

theorem naturalCases_x87 : NaturalCases 64 ex87 := ⟨by decide +kernel, by decide +kernel⟩

/-! ### Each setting's dot and the exact one (40_alpha_blend_lut.md R81, R83) -/

/-- A dot function equals the exact dot less one on the set, each pair of which is exceptional. -/
structure OneBelowExactOn (set : PairSet) (dotOf : Byte → Byte → Nat) : Prop where
  listed : ∀ {s d : Byte}, set.has s d = true → exceptional s d
  add_eq : ∀ s d : Byte, dotOf s d + (if set.has s d then 1 else 0) = dotExact s d

namespace OneBelowExactOn

variable {set : PairSet} {dotOf : Byte → Byte → Nat}

theorem le_exact (h : OneBelowExactOn set dotOf) (s d : Byte) : dotOf s d ≤ dotExact s d :=
  Nat.le.intro (h.add_eq s d)

theorem le_fifteen (h : OneBelowExactOn set dotOf) (s d : Byte) : dotOf s d ≤ 15 :=
  (h.le_exact s d).trans (dotExact_le s d)

/-- A pair that is not exceptional has the exact dot. -/
theorem eq_exact (h : OneBelowExactOn set dotOf) {s d : Byte} (no : ¬ exceptional s d) :
    dotOf s d = dotExact s d := by
  have add := h.add_eq s d
  rwa [if_neg (mt h.listed no)] at add

end OneBelowExactOn

section
variable {p : Nat} {set : PairSet} {s d : Byte} {k : Nat}

/-- A natural with a zero term. -/
theorem NaturalCases.dotRounded_of_zero (checked : NaturalCases p set) (hk : exactNumerator s d = 225 * k)
    (hk16 : k < 16) (zero : srcTerm s = 0 ∨ dstTerm s d = 0) : dotRounded p s d = k := by
  rw [exactNumerator_eq_terms] at hk
  obtain ⟨onlySource, onlyDestination⟩ := checked.zeroTerm k hk16
  rcases zero with hx | hy
  · rw [dotRounded, hx, show dstTerm s d = 225 * k by omega]
    exact onlyDestination
  · rw [dotRounded, hy, show srcTerm s = 15 * k by omega]
    exact onlySource

/-- A natural with two nonzero terms. -/
theorem NaturalCases.dotRounded_of_ne_zero (checked : NaturalCases p set) (hk : exactNumerator s d = 225 * k)
    (hk16 : k < 16) (hx : srcTerm s ≠ 0) (hy : dstTerm s d ≠ 0) :
    dotRounded p s d + (if set.has s d then 1 else 0) = k := by
  rw [exactNumerator_eq_terms] at hk
  have factor : 0 < 15 - (alpha s).toNat := Nat.pos_of_ne_zero (right_ne_zero_of_mul hy)
  have quotient : dstTerm s d / (15 - (alpha s).toNat) = (dot d).toNat * (alpha d).toNat :=
    Nat.mul_div_cancel _ factor
  have check := checked.nonzeroTerms (alpha s).toNat (by omega) (dot s).toNat (dot s).isLt k hk16
  rw [agreesAtNatural_iff (x := srcTerm s) rfl (show _ = dstTerm s d by omega) hx hy (Nat.mul_mod_left _ _),
    quotient, ← toNat_eq_lanes] at check
  simp only [PairSet.has_iff_mem_row]
  exact check d.toNat (mem_bytesOfProduct (left_ne_zero_of_mul hy))

/-- A setting's integer form, in three parts: no natural, by the error of the four roundings; a natural with a zero
term; a natural with none. -/
theorem oneBelowExactOn_dotRounded (hp : 24 ≤ p)
    (listed : ∀ {s d : Byte}, set.has s d = true → exceptional s d) (checked : NaturalCases p set) :
    OneBelowExactOn set (dotRounded p) := by
  refine ⟨listed, fun s d => ?_⟩
  have unlisted (no : ¬ exceptional s d) : (if set.has s d then 1 else 0) = 0 := if_neg (mt listed no)
  have hx := srcTerm_le s
  have hy := dstTerm_le s d
  have bound := exactNumerator_le s d
  have ha := lane_le (alpha s)
  rw [dotExact_eq]
  by_cases natural : 225 ∣ exactNumerator s d
  · obtain ⟨k, hk⟩ := natural
    rw [hk, Nat.mul_div_cancel_left k (by decide)]
    by_cases zero : srcTerm s = 0 ∨ dstTerm s d = 0
    · rw [unlisted fun ⟨_, hx0, hy0⟩ => zero.elim hx0 hy0, Nat.add_zero]
      exact checked.dotRounded_of_zero hk (by omega) zero
    · obtain ⟨hx0, hy0⟩ := not_or.mp zero
      exact checked.dotRounded_of_ne_zero hk (by omega) hx0 hy0
  · rw [unlisted fun ⟨dvd, _⟩ => natural dvd, Nat.add_zero, dotRounded]
    rw [exactNumerator_eq_terms] at natural ⊢
    exact dotOfTerms_of_not_dvd hp (by omega) (by omega) natural

end

theorem oneBelowExactOn_binary64 : OneBelowExactOn e64 dotBinary64 :=
  oneBelowExactOn_dotRounded (by decide) exceptional_of_e64 naturalCases_binary64

theorem oneBelowExactOn_binary32 : OneBelowExactOn e32 dotBinary32 :=
  oneBelowExactOn_dotRounded (by decide) exceptional_of_e32 naturalCases_binary32

theorem oneBelowExactOn_x87 : OneBelowExactOn ex87 dotX87 :=
  oneBelowExactOn_dotRounded (by decide) exceptional_of_ex87 naturalCases_x87

/-- The exact setting has no exceptions. -/
theorem oneBelowExactOn_exact : OneBelowExactOn [] dotExact := ⟨nofun, fun _ _ => rfl⟩

/-- Settles O19: the four steps are the definition's own, and their result is one below the exact dot on E64. -/
theorem binary64DotHasItsIntegerForm : Obligations.Binary64DotHasItsIntegerForm := by
  refine ⟨fun s d => ⟨?_, oneBelowExactOn_binary64.le_fifteen s d⟩, oneBelowExactOn_binary64.add_eq,
    fun s d h => (exceptional_of_e64 h).1, rfl⟩
  simp only [← pow_add]
  rfl

/-- Settles O20: by the integer forms of both settings. -/
theorem otherSettingsHaveTheirIntegerForm : Obligations.OtherSettingsHaveTheirIntegerForm := by
  refine ⟨oneBelowExactOn_binary32.add_eq, oneBelowExactOn_x87.add_eq, fun s d h => ?_, rfl, rfl⟩
  rcases h with inE32 | inEx87
  · exact (exceptional_of_e32 inE32).1
  · exact (exceptional_of_ex87 inEx87).1

/-! ### The entries of the table (40_alpha_blend_lut.md R80) -/

section
variable {dotOf : Byte → Byte → Nat} {s d : Byte}

/-- A dot of four bits does not reach the alpha's lane. -/
theorem lutByte_toNat (four : dotOf s d ≤ 15) :
    (lutByte dotOf s d).toNat = 16 * max (alpha s).toNat (alpha d).toNat + dotOf s d := by
  have lanes : max (alpha s).toNat (alpha d).toNat ≤ 15 := max_le (lane_le _) (lane_le _)
  rw [lutByte, BitVec.toNat_ofNat, ← Nat.shiftLeft_add_eq_or_of_lt (show dotOf s d < 2 ^ 4 by omega),
    Nat.shiftLeft_eq]
  omega

theorem alpha_lutByte (four : dotOf s d ≤ 15) :
    (alpha (lutByte dotOf s d)).toNat = max (alpha s).toNat (alpha d).toNat := by
  rw [alpha_toNat, lutByte_toNat four]
  omega

theorem dot_lutByte (four : dotOf s d ≤ 15) : (dot (lutByte dotOf s d)).toNat = dotOf s d := by
  rw [dot_toNat, lutByte_toNat four]
  omega

end

/-- A setting whose table is made of the dot function, which has its integer form. -/
structure NamedSetting (numerics : LutNumerics) (dotOf : Byte → Byte → Nat) (set : PairSet) : Prop
    extends OneBelowExactOn set dotOf where
  entry : ∀ s d : Byte, lut numerics (lutIndex s d) = lutByte dotOf s d

theorem namedSetting_binary64 : NamedSetting .binary64 dotBinary64 e64 := ⟨oneBelowExactOn_binary64, lut_binary64⟩

theorem namedSetting_exact : NamedSetting .exact dotExact [] := ⟨oneBelowExactOn_exact, lut_exact⟩

theorem namedSetting_binary32 : NamedSetting .binary32 dotBinary32 e32 := ⟨oneBelowExactOn_binary32, lut_binary32⟩

theorem namedSetting_x87 : NamedSetting .x87 dotX87 ex87 := ⟨oneBelowExactOn_x87, lut_x87⟩

section
variable {numerics : LutNumerics} {dotOf : Byte → Byte → Nat} {set : PairSet}

/-- An entry as a number and by its lanes. -/
theorem NamedSetting.entry_lanes (h : NamedSetting numerics dotOf set) (s d : Byte) :
    (lut numerics (lutIndex s d)).toNat = 16 * max (alpha s).toNat (alpha d).toNat + dotOf s d ∧
    (alpha (lut numerics (lutIndex s d))).toNat = max (alpha s).toNat (alpha d).toNat ∧
    (dot (lut numerics (lutIndex s d))).toNat = dotOf s d := by
  have four := h.le_fifteen s d
  rw [h.entry]
  exact ⟨lutByte_toNat four, alpha_lutByte four, dot_lutByte four⟩

end

/-- Settles O22: by the entries of each named setting. -/
theorem tableEntryIsMaxAlphaAndDot : Obligations.TableEntryIsMaxAlphaAndDot := by
  refine ⟨Config.block_lutNumerics, ?_⟩
  simp only [List.forall_mem_cons]
  exact ⟨namedSetting_binary64.entry_lanes, namedSetting_exact.entry_lanes, namedSetting_binary32.entry_lanes,
    namedSetting_x87.entry_lanes, nofun⟩

/-! ### The laws of the table (40_alpha_blend_lut.md R86) -/

namespace OneBelowExactOn

variable {set : PairSet} {dotOf : Byte → Byte → Nat} {s d : Byte}

theorem eq_exact_of_srcTerm (h : OneBelowExactOn set dotOf) (zero : srcTerm s = 0) : dotOf s d = dotExact s d :=
  h.eq_exact fun ⟨_, nonzero, _⟩ => nonzero zero

theorem eq_exact_of_dstTerm (h : OneBelowExactOn set dotOf) (zero : dstTerm s d = 0) : dotOf s d = dotExact s d :=
  h.eq_exact fun ⟨_, _, nonzero⟩ => nonzero zero

/-- An opaque source replaces the destination. -/
theorem of_opaque_source (h : OneBelowExactOn set dotOf) (opaqueSource : alpha s = 15#4) :
    dotOf s d = (dot s).toNat := by
  have zero : dstTerm s d = 0 := by simp [dstTerm, opaqueSource]
  rw [h.eq_exact_of_dstTerm zero, dotExact_eq, exactNumerator_eq_terms, zero, srcTerm, opaqueSource, BitVec.toNat_ofNat]
  omega

/-- A transparent source contributes nothing. -/
theorem of_transparent_source (h : OneBelowExactOn set dotOf) (transparent : alpha s = 0#4) :
    dotOf s d = (dot d).toNat * (alpha d).toNat / 15 := by
  have zero : srcTerm s = 0 := by simp [srcTerm, transparent]
  have full : dstTerm s d = (dot d).toNat * (alpha d).toNat * 15 := by rw [dstTerm, transparent]; rfl
  rw [h.eq_exact_of_srcTerm zero, dotExact_eq, exactNumerator_eq_terms, zero, full]
  omega

/-- A transparent destination contributes nothing. -/
theorem of_transparent_destination (h : OneBelowExactOn set dotOf) (transparent : alpha d = 0#4) :
    dotOf s d = (dot s).toNat * (alpha s).toNat / 15 := by
  have zero : dstTerm s d = 0 := by simp [dstTerm, transparent]
  rw [h.eq_exact_of_dstTerm zero, dotExact_eq, exactNumerator_eq_terms, zero, srcTerm]
  omega

/-- Under a transparent source the entry's alpha is the destination's. -/
theorem alpha_of_transparent_source (h : OneBelowExactOn set dotOf) (transparent : alpha s = 0#4) :
    alpha (lutByte dotOf s d) = alpha d := by
  apply BitVec.eq_of_toNat_eq
  rw [alpha_lutByte (h.le_fifteen s d), transparent]
  exact Nat.zero_max _

/-- The four rows of 40_alpha_blend_lut.md R86. -/
theorem laws (h : OneBelowExactOn set dotOf) (s d : Byte) :
    (alpha s = 15#4 → dotOf s d = (dot s).toNat) ∧
    (alpha s = 0#4 → dotOf s d = (dot d).toNat * (alpha d).toNat / 15) ∧
    (alpha d = 0#4 → dotOf s d = (dot s).toNat * (alpha s).toNat / 15) ∧
    (s = 0x00#8 → dotOf s d = (dot d).toNat * (alpha d).toNat / 15 ∧ alpha (lutByte dotOf s d) = alpha d) := by
  refine ⟨h.of_opaque_source, h.of_transparent_source, h.of_transparent_destination, ?_⟩
  rintro rfl
  exact ⟨h.of_transparent_source rfl, h.alpha_of_transparent_source rfl⟩

end OneBelowExactOn

/-! ### The byte of BLEND_ALPHA (40_alpha_blend_lut.md R84, R86, R87) -/

@[simp] theorem alpha_blendAlphaByte (c : Config) (src dst : Byte) : alpha (blendAlphaByte c src dst) = alpha dst := by
  simp [blendAlphaByte]

theorem dot_blendAlphaByte (c : Config) (src dst : Byte) :
    dot (blendAlphaByte c src dst) = dot (lut c.lutNumerics (lutIndex src (dst ||| 0xF0#8))) := by
  simp [blendAlphaByte]

section
variable {c : Config} {dotOf : Byte → Byte → Nat} {set : PairSet} {s d : Byte}

theorem NamedSetting.dot_blend (h : NamedSetting c.lutNumerics dotOf set) (s d : Byte) :
    (dot (blendAlphaByte c s d)).toNat = dotOf s (d ||| 0xF0#8) := by
  obtain ⟨-, -, dotLane⟩ := h.entry_lanes s (d ||| 0xF0#8)
  rw [dot_blendAlphaByte, dotLane]

/-- The consequences of the laws for BLEND_ALPHA. -/
theorem NamedSetting.blend_laws (h : NamedSetting c.lutNumerics dotOf set) (s d : Byte) :
    (alpha s = 0#4 → blendAlphaByte c s d = d) ∧ (alpha s = 15#4 → dot (blendAlphaByte c s d) = dot s) := by
  refine ⟨fun transparent => ?_, fun opaqueSource => ?_⟩
  · refine eq_of_lanes (alpha_blendAlphaByte c s d) (BitVec.eq_of_toNat_eq ?_)
    rw [h.dot_blend, h.of_transparent_source transparent, dot_forceAlpha, alpha_forceAlpha]
    exact Nat.mul_div_cancel _ (by decide)
  · apply BitVec.eq_of_toNat_eq
    rw [h.dot_blend, h.of_opaque_source opaqueSource]

end

/-- Settles O23: no exceptional pair meets a law's premise, and the exact dot obeys each. -/
theorem tableLawsHoldInEverySetting : Obligations.TableLawsHoldInEverySetting := by
  constructor
  · simp only [namedDots, List.forall_mem_cons]
    exact ⟨oneBelowExactOn_binary64.laws, oneBelowExactOn_exact.laws, oneBelowExactOn_binary32.laws,
      oneBelowExactOn_x87.laws, nofun⟩
  · simp only [List.forall_mem_cons]
    refine ⟨?_, ?_, ?_, ?_, nofun⟩ <;> intro c s d setting
    · exact NamedSetting.blend_laws (setting ▸ namedSetting_binary64) s d
    · exact NamedSetting.blend_laws (setting ▸ namedSetting_exact) s d
    · exact NamedSetting.blend_laws (setting ▸ namedSetting_binary32) s d
    · exact NamedSetting.blend_laws (setting ▸ namedSetting_x87) s d

/-- With the destination's alpha forced to 15 the exact dot is a linear mix (40_alpha_blend_lut.md R87). -/
theorem dotExact_forceAlpha (s d : Byte) :
    dotExact s (d ||| 0xF0#8) = ((dot s).toNat * (alpha s).toNat + (dot d).toNat * (15 - (alpha s).toNat)) / 15 := by
  rw [dotExact_eq, exactNumerator_eq_terms, dstTerm, dot_forceAlpha, alpha_forceAlpha, BitVec.toNat_ofNat,
    Nat.mul_right_comm, srcTerm]
  omega

/-- The source byte and the destination's dot of each listed pair with a destination alpha of 15: those that BLEND_ALPHA
can reach (40_alpha_blend_lut.md R87). -/
def PairSet.opaqueDots (set : PairSet) : List (Nat × Nat) :=
  set.flatMap fun row => (row.2.filter (240 ≤ ·)).map fun b => (row.1, b - 240)

theorem toNat_forceAlpha (d : Byte) : (d ||| 0xF0#8).toNat = 240 + (dot d).toNat := by
  rw [toNat_eq_lanes, alpha_forceAlpha, dot_forceAlpha]
  rfl

theorem PairSet.has_forceAlpha (set : PairSet) (s d : Byte) :
    set.has s (d ||| 0xF0#8) = true ↔ (s.toNat, (dot d).toNat) ∈ set.opaqueDots := by
  simp only [PairSet.has, PairSet.opaqueDots, toNat_forceAlpha, List.any_eq_true, Bool.and_eq_true, beq_iff_eq,
    List.mem_flatMap, List.mem_map, List.mem_filter, decide_eq_true_eq, Prod.mk.injEq]
  constructor
  · rintro ⟨row, inSet, source, b, inRow, destination⟩
    exact ⟨row, inSet, b, ⟨inRow, by omega⟩, source, by omega⟩
  · rintro ⟨row, inSet, b, ⟨inRow, opaqueByte⟩, source, destination⟩
    exact ⟨row, inSet, source, b, inRow, by omega⟩

/-- Settles O24: the mix is the exact dot, and the pairs are those of E64 with a destination alpha of 15. -/
theorem blendAlphaDotIsALinearMix : Obligations.BlendAlphaDotIsALinearMix := by
  intro s d
  refine ⟨dotExact_forceAlpha s d, ?_⟩
  have integerForm := namedSetting_binary64.add_eq s (d ||| 0xF0#8)
  rw [← NamedSetting.dot_blend (c := Config.block) namedSetting_binary64, dotExact_forceAlpha] at integerForm
  simp only [PairSet.has_forceAlpha] at integerForm
  exact integerForm

/-! ### The two commands (40_alpha_blend_lut.md R84, R85, R88) -/

theorem exec_blendAlpha (src dst : Byte) (s : State) :
    exec (.blendAlpha src dst) s =
      .next { s with responses := s.responses ++ [(blendAlphaByte Config.block src dst).setWidth 32] } := by
  rw [← responseWord_ok_byte]
  rfl

theorem exec_blendAlphaBoth (src dst : Byte) (s : State) :
    exec (.blendAlphaBoth src dst) s =
      .next { s with responses := s.responses ++ [(lut .binary64 (lutIndex src dst)).setWidth 32] } := by
  rw [← responseWord_ok_byte]
  rfl

/-- Settles O25: BLEND_ALPHA's byte joins DST's alpha and the entry's dot, BLEND_ALPHABOTH's is the entry. -/
theorem blendsKeepTheNibbleLanes : Obligations.BlendsKeepTheNibbleLanes := by
  intro src dst s
  obtain ⟨-, alphaLane, dotLane⟩ := namedSetting_binary64.entry_lanes src dst
  exact ⟨⟨_, exec_blendAlpha src dst s, alpha_blendAlphaByte _ src dst,
      NamedSetting.dot_blend (c := Config.block) namedSetting_binary64 src dst⟩,
    ⟨_, exec_blendAlphaBoth src dst s, alphaLane, dotLane⟩, alphaLane, dotLane,
    namedSetting_binary64.le_fifteen src dst⟩

/-- Settles O26: the block's table is BINARY64's. -/
theorem blendAlphaCompletes : Obligations.BlendAlphaCompletes := by
  intro src dst s
  rw [exec_blendAlpha, blendAlphaByte, Config.block_lutNumerics, lut_binary64]

/-- Settles O27: the command reads the table's entry itself. -/
theorem blendAlphaBothCompletes : Obligations.BlendAlphaBothCompletes := by
  intro src dst s
  rw [exec_blendAlphaBoth, lut_binary64]

end Sys2Proof.Machine
end

section
/-! The statements of 45_subframe_encoder.md: the configuration commands (R101 to R104), the bytes and bits of the planes
(R105, R109, R111), the checks of ENCODE (R106, R110), and what it leaves in PLANE (R107, R108). -/

namespace Sys2Proof

/-! ### The words of a command (30_encoding.md R62, R66) -/

/-- A field placed in a word, as a number. -/
theorem or_atBit_toNat {n : Nat} (p lo : Nat) (v : BitVec n) :
    BitVec.ofNat 32 p ||| atBit v lo = BitVec.ofNat 32 (p ||| v.toNat <<< lo) := by
  simpa using or_atBit_ofNat p lo (fitsField_of_lt v.isLt)

/-- Two fields placed in a word, as a number. -/
theorem or_atBit_or_atBit_toNat {m n : Nat} (p lo : Nat) (v : BitVec m) (v' : BitVec n) :
    BitVec.ofNat 32 p ||| atBit v lo ||| atBit v' 0 = BitVec.ofNat 32 (p ||| v.toNat <<< lo ||| v'.toNat) := by
  rw [or_atBit_toNat, or_atBit_toNat, Nat.shiftLeft_zero]

/-- Where the reserved bits of a format lie side by side, a word of its opcode is rejected unless they are all 0. -/
theorem decode_of_reserved_field {w : Word} {i : Instr} {lo n : Nat} (opcode : opcField w = i.opc)
    (reserved : i.reserved = atBit (BitVec.allOnes n) lo) (inside : lo + n ≤ 32) (set : w.extractLsb' lo n ≠ 0#n) :
    decode w = .error .reservedBits := by
  rw [decode_of_opc opcode, if_neg]
  intro clear
  refine set ?_
  rw [reserved, ← atBit_extractLsb'] at clear
  rw [← extractLsb'_atBit (w.extractLsb' lo n) inside, clear]
  simp

end Sys2Proof

namespace Sys2Proof.Machine

/-! ### The planes of two states that look alike to ENCODE (45_subframe_encoder.md R107) -/

section
variable {c : Config} {u u' : Bool} {s s' : State}

/-- One pixel's pass sees of the state the width, the size of a plane, the pixel's dot and, for a dot that is not 0, its
final code. -/
theorem encodePixel_congr {row col : Nat} (width : s'.width = s.width) (planeSize : s'.planeSize = s.planeSize)
    (sameDot : (s'.frame.read (frameAddr s.width.toNat row col)).map dot =
      (s.frame.read (frameAddr s.width.toNat row col)).map dot)
    (codes : ∀ d, d ≠ 0#4 → finalCode c u' s' d = finalCode c u s d) (m : Memory) :
    encodePixel c u' s' row col m = encodePixel c u s row col m := by
  unfold encodePixel memReadFrame
  rw [width, planeSize]
  cases hp : s.frame.read (frameAddr s.width.toNat row col) with
  | none =>
    have hq : s'.frame.read (frameAddr s.width.toNat row col) = none := by simpa [hp] using sameDot
    rw [hq]
  | some p =>
    obtain ⟨q, hq, same⟩ : ∃ q, s'.frame.read (frameAddr s.width.toNat row col) = some q ∧ dot q = dot p := by
      simpa [hp] using sameDot
    simp only [hq, same]
    split
    · rfl
    · next lit => rw [codes _ lit]

theorem encodePixels_congr {l : List (Nat × Nat)}
    (pixels : ∀ x ∈ l, ∀ m, encodePixel c u' s' x.1 x.2 m = encodePixel c u s x.1 x.2 m) (m : Memory) :
    encodePixels c u' s' l m = encodePixels c u s l m := by
  induction l generalizing m with
  | nil => rfl
  | cons x l ih =>
    obtain ⟨first, others⟩ := List.forall_mem_cons.mp pixels
    simp only [encodePixels, first, ih others]

/-- ENCODE sees of the state the dimensions, PLANE, the dots of the frame and the final codes of the dots that are not 0. -/
theorem encodedPlane_congr (width : s'.width = s.width) (height : s'.height = s.height) (plane : s'.plane = s.plane)
    (dots : ∀ a < s.pixelCount, (s'.frame.read a).map dot = (s.frame.read a).map dot)
    (codes : ∀ d, d ≠ 0#4 → finalCode c u' s' d = finalCode c u s d) :
    encodedPlane c u' s' = encodedPlane c u s := by
  have planeSize : s'.planeSize = s.planeSize := by
    rw [State.planeSize, State.planeSize, State.pixelCount, State.pixelCount, width, height]
  unfold encodedPlane
  rw [width, height, plane, planeSize]
  refine encodePixels_congr (fun x hx => ?_) _
  obtain ⟨hrow, hcol⟩ := mem_pixelOrder.mp hx
  exact encodePixel_congr width planeSize (dots _ (frameAddr_lt_pixelCount hrow hcol)) codes

end

/-- The final code of a dot is that of its entry, where USE_CMAP asks for the map. -/
theorem finalCode_congr {c : Config} {u : Bool} {s s' : State} {d : BitVec 4}
    (entry : u = true → s'.readCmap d = s.readCmap d) : finalCode c u s' d = finalCode c u s d := by
  cases u with
  | false => rfl
  | true => simp only [finalCode, entry rfl]

/-- Where an entry of the map is its own index, USE_CMAP does not matter to its dot. -/
theorem finalCode_of_identity {u : Bool} {s : State} {d : BitVec 4} (entry : u = true → s.readCmap d = d) (c : Config) :
    finalCode c u s d = hwmap c.bitOrder d := by
  cases u with
  | false => rfl
  | true => simp only [finalCode, entry rfl, if_true]

/-! ### The configuration commands (45_subframe_encoder.md R101 to R104) -/

theorem responseWord_ok_zero : responseWord .ok 0#16 = 0x00000000#32 := by decide

theorem exec_setCmap (idx val : BitVec 4) (s : State) :
    exec (.setCmap idx val) s = .next ((s.writeCmap idx val).respond .ok 0#16) := rfl

theorem exec_resetCmap (s : State) : exec .resetCmap s = .next (s.writeCmapIdentity.respond .ok 0#16) := rfl

theorem exec_setWidth (imm : BitVec 16) (s : State) :
    exec (.setWidth imm) s = .next ((s.writeWidth imm).respond .ok 0#16) := rfl

theorem exec_setHeight (imm : BitVec 16) (s : State) :
    exec (.setHeight imm) s = .next ((s.writeHeight imm).respond .ok 0#16) := rfl

/-- A pixel of dot 0 is skipped before any map, so entry 0 is never read (45_subframe_encoder.md R101). -/
theorem encodedPlane_writeCmap_zero (c : Config) (u : Bool) (s : State) (v : BitVec 4) :
    encodedPlane c u (s.writeCmap 0#4 v) = encodedPlane c u s :=
  encodedPlane_congr rfl rfl rfl (fun _ _ => rfl) fun _ nonzero =>
    finalCode_congr fun _ => s.readCmap_writeCmap_other v nonzero

theorem encodedPlane_of_identity {s : State} (identity : ∀ i, s.readCmap i = i) (c : Config) :
    encodedPlane c true s = encodedPlane c false s :=
  encodedPlane_congr rfl rfl rfl (fun _ _ => rfl) fun d _ => by
    rw [finalCode_of_identity fun _ => identity d, finalCode_of_identity fun _ => identity d]

/-- Settles O29: the command is one write of one entry, and ENCODE reads every entry but entry 0. -/
theorem setCmapWritesOneEntry : Obligations.SetCmapWritesOneEntry := by
  refine ⟨fun idx val s => ⟨_, exec_setCmap idx val s, ?_⟩, fun idx val => or_atBit_or_atBit_toNat 0x30000000 4 idx val,
    fun w opcode set => decode_of_reserved_field (i := .setCmap 0 0) opcode rfl (by decide) set,
    encodedPlane_writeCmap_zero, fun s => ?_⟩
  · simp +contextual [responseWord_ok_zero, State.readCmap_writeCmap_other]
  · have runs := runWord_of_decode (decodeReadsBackEveryEncodedCommand (.setCmap 3#4 12#4)) s
    exact ⟨_, runs, s.readCmap_writeCmap_same 3#4 12#4⟩

/-- Settles O30: under the identity map the final code of a dot is the same with USE_CMAP 1 and 0. -/
theorem resetCmapMakesTheIdentity : Obligations.ResetCmapMakesTheIdentity := by
  refine ⟨fun s => ⟨_, exec_resetCmap s, s.readCmap_writeCmapIdentity, rfl, rfl, rfl, rfl, rfl, ?_,
    encodedPlane_of_identity s.readCmap_writeCmapIdentity⟩, rfl,
    fun w opcode set => decode_of_reserved_field (i := .resetCmap) opcode rfl (by decide) set⟩
  rw [State.respond_responses, responseWord_ok_zero, State.writeCmapIdentity_responses]

/-- Settles O31: the command is one write of WIDTH. -/
theorem setWidthCompletes : Obligations.SetWidthCompletes := by
  refine ⟨fun imm s => ?_, fun imm => ?_,
    fun w opcode set => decode_of_reserved_field (i := .setWidth 0) opcode rfl (by decide) set,
    decodeReadsBackEveryEncodedCommand (.setWidth 128#16)⟩
  · rw [exec_setWidth, ← responseWord_ok_zero]
    rfl
  · exact or_atBit_toNat 0x50000000 0 imm

/-- Settles O32: the command is one write of HEIGHT. -/
theorem setHeightCompletes : Obligations.SetHeightCompletes := by
  refine ⟨fun imm s => ?_, fun imm => ?_,
    fun w opcode set => decode_of_reserved_field (i := .setHeight 0) opcode rfl (by decide) set,
    decodeReadsBackEveryEncodedCommand (.setHeight 32#16)⟩
  · rw [exec_setHeight, ← responseWord_ok_zero]
    rfl
  · exact or_atBit_toNat 0x60000000 0 imm

/-! ### The planes that light a pixel (45_subframe_encoder.md R109) -/

theorem popcount_eq_sum (code : BitVec 4) : popcount code = ∑ k : Fin 4, (code.getLsbD k.val).toNat := by
  revert code
  decide

/-- HWMAP moves the ones of a code and keeps their count. -/
theorem popcount_hwmap (order : BitOrder) (code : BitVec 4) : popcount (hwmap order code) = popcount code := by
  simp only [popcount_eq_sum, hwmap_getLsbD]
  exact Equiv.sum_comp order.symm fun k : Fin 4 => (code.getLsbD k.val).toNat

theorem ncard_ones (code : BitVec 4) : {k | k < 4 ∧ code.getLsbD k = true}.ncard = popcount code := by
  have ones : {k | k < 4 ∧ code.getLsbD k = true} = ↑{k ∈ Finset.range 4 | code.getLsbD k = true} := by
    ext k
    simp
  rw [ones, Set.ncard_coe_finset]
  clear ones
  revert code
  decide

/-- The number of ones of each code, from 15 down to 0 (45_subframe_encoder.md R109). -/
theorem popcount_eq_ite (code : BitVec 4) :
    popcount code =
      if code = 15#4 then 4
      else if code ∈ [7#4, 11#4, 13#4, 14#4] then 3
      else if code ∈ [3#4, 5#4, 6#4, 9#4, 10#4, 12#4] then 2
      else if code ∈ [1#4, 2#4, 4#4, 8#4] then 1
      else 0 := by
  revert code
  decide

section
variable {s : State} {row col : Nat} {p : Byte} (hp : s.frame.read (frameAddr s.width.toNat row col) = some p)
include hp

theorem pixelLights_iff (c : Config) (u : Bool) (k : Nat) :
    pixelLights c u s k row col ↔ dot p ≠ 0#4 ∧ (finalCode c u s (dot p)).getLsbD k = true := by
  simp [pixelLights, hp]

theorem not_pixelLights_of_dot_zero (dark : dot p = 0#4) (c : Config) (u : Bool) (k : Nat) :
    ¬ pixelLights c u s k row col := fun lights => ((pixelLights_iff hp c u k).mp lights).1 dark

theorem ncard_pixelLights (lit : dot p ≠ 0#4) (c : Config) (u : Bool) :
    {k | k < 4 ∧ pixelLights c u s k row col}.ncard = popcount (if u then s.readCmap (dot p) else dot p) := by
  simp only [pixelLights_iff hp, lit, ne_eq, not_false_eq_true, true_and]
  rw [ncard_ones, finalCode, popcount_hwmap]

/-- Without the map, the code of dot 0 has no ones, so a pixel of any dot is counted alike. -/
theorem ncard_pixelLights_identity (c : Config) :
    {k | k < 4 ∧ pixelLights c false s k row col}.ncard = popcount (dot p) := by
  by_cases dark : dot p = 0#4
  · simp only [not_pixelLights_of_dot_zero hp dark, and_false, Set.ofPred_false, Set.ncard_empty, dark]
    rfl
  · exact ncard_pixelLights hp dark c false

end

/-- Settles O35: the planes are the ones of the final code, whose count HWMAP keeps. -/
theorem planesLitAreTheOnesOfTheCode : Obligations.PlanesLitAreTheOnesOfTheCode := by
  refine ⟨popcount_hwmap, fun c u s row col p hp => ⟨fun lit => ncard_pixelLights hp lit c u,
    fun dark k => not_pixelLights_of_dot_zero hp dark c u k, ?_⟩⟩
  rw [ncard_pixelLights_identity hp, popcount_eq_ite]

/-! ### The bytes of the planes (45_subframe_encoder.md R105, R111) -/

theorem State.planeSize_eq (s : State) : s.planeSize = (s.pixelCount + 7) / 8 := rfl

/-- The byte of a pixel is one of the `P` bytes of a plane. -/
theorem pixelByte_lt_planeSize {s : State} {row col : Nat} (hrow : row < s.height.toNat) (hcol : col < s.width.toNat) :
    frameAddr s.width.toNat row col / 8 < s.planeSize := by
  have inFrame := frameAddr_lt_pixelCount hrow hcol
  rw [State.planeSize_eq]
  omega

/-- `N` is exact: the dimensions are 16-bit values. -/
theorem State.pixelCount_le (s : State) : s.pixelCount ≤ 65535 ^ 2 := by
  rw [sq]
  exact Nat.mul_le_mul (Nat.le_of_lt_succ s.width.isLt) (Nat.le_of_lt_succ s.height.isLt)

/-- Settles O36: the byte of a pixel is at most the byte of the last pixel, which is byte `P - 1`. -/
theorem pixelStaysInItsPlane : Obligations.PixelStaysInItsPlane := by
  refine ⟨fun s => ⟨rfl, s.pixelCount_le, s.planeSize_eq⟩, fun s k row col hrow hcol => ?_⟩
  have inFrame := frameAddr_lt_pixelCount hrow hcol
  have inPlane := pixelByte_lt_planeSize hrow hcol
  have size := s.planeSize_eq
  refine ⟨rfl, ?_, ?_, Nat.le_add_right _ _, ?_⟩
  · exact Nat.div_le_div_right (Nat.le_sub_one_of_lt inFrame)
  · omega
  · rw [planeAddr]
    omega

/-- Settles O38: 128 is a multiple of 8, so byte and bit are the pixel's own (20_memory.md R45). -/
theorem observedSizeFillsBothMemories : Obligations.ObservedSizeFillsBothMemories := by
  obtain ⟨bitOfAddr, ownBit, -⟩ := bitOfAPixelIsItsOwnAtWidthsOfEight
  refine ⟨by decide, by decide, by decide, rfl, rfl, by decide, fun row => ?_,
    fun row col => bitOfAddr 128 row col (by decide), fun row col row' col' hcol hcol' different shared => ?_⟩
  · simp only [frameAddr]
    omega
  · obtain ⟨sameByte, sameBit⟩ := Prod.mk.inj shared
    obtain ⟨rfl, rfl⟩ := ownBit 128 row col row' col' (by decide) hcol hcol' sameByte sameBit
    exact different rfl

/-! ### The checks of ENCODE (45_subframe_encoder.md R106, R110) -/

theorem encodeFrame_of_other_count {nsub : BitVec 4} (other : nsub ≠ 4#4) (c : Config) (u : Bool) (s : State) :
    encodeFrame c u nsub s = .next { s with responses := s.responses ++ [0x40000000#32] } := by
  rcases encodeFrame_cases c u nsub s with ⟨-, rejected⟩ | ⟨four, -⟩ | ⟨four, -⟩ | ⟨four, -⟩
  · exact rejected
  all_goals exact absurd four other

theorem encodeFrame_of_not_fits {c : Config} {s : State} (large : ¬ fitsMemories c s) (u : Bool) :
    encodeFrame c u 4#4 s = .next { s with responses := s.responses ++ [0x50000000#32] } := by
  rcases encodeFrame_cases c u 4#4 s with ⟨other, -⟩ | ⟨-, -, rejected⟩ | ⟨-, fits, -⟩ | ⟨-, fits, -⟩
  · exact absurd rfl other
  · exact rejected
  all_goals exact absurd fits large

/-- Settles O39: the count is checked first. -/
theorem encodeRejectsEveryOtherCount : Obligations.EncodeRejectsEveryOtherCount :=
  fun u _ s other => encodeFrame_of_other_count other Config.block u s

/-- Settles O40: either half of the check fails alone. -/
theorem encodeRejectsAFrameTooLarge : Obligations.EncodeRejectsAFrameTooLarge := by
  refine ⟨fun c u s large => encodeFrame_of_not_fits (fun ⟨fits, _⟩ => large.not_ge fits) u,
    fun c u s _ large => encodeFrame_of_not_fits (fun ⟨_, fits⟩ => large.not_ge fits) u, fun u s large => ?_⟩
  refine encodeFrame_of_not_fits (c := Config.block) (fun ⟨frameFits, planesFit⟩ => ?_) u
  rcases large with large | large
  · exact large.not_ge frameFits
  · exact large.not_ge planesFit

/-! ### ENCODE of a loaded frame completes (45_subframe_encoder.md R106; 70_reset_and_hazards.md R164) -/

/-- Every byte below `limit` holds a value. -/
def Memory.WrittenBelow (m : Memory) (limit : Nat) : Prop := ∀ a < limit, (m.read a).isSome

theorem zeroPlanes_writtenBelow (m : Memory) (count : Nat) : (zeroPlanes m count).WrittenBelow count := by
  intro a ha
  rw [zeroPlanes_read, if_pos ha]
  rfl

/-- No write takes a byte's value away. -/
theorem keptBelow_writtenBelow (limit bound : Nat) : KeptBelow limit (Memory.WrittenBelow · bound) := by
  intro m a v _ written b hb
  rw [Memory.read_write]
  split
  · rfl
  · exact written b hb

theorem lightPlane_completes {w p row col k : Nat} {m : Memory} (written : (m.read (planeAddr w p k row col)).isSome)
    (code : BitVec 4) : ∃ m', lightPlane w p row col code k m = .ok m' := by
  cases outcome : lightPlane w p row col code k m with
  | ok m' => exact ⟨m', rfl⟩
  | error f =>
    obtain ⟨-, unwritten, -⟩ := lightPlane_error outcome
    rw [unwritten] at written
    cases written

theorem lightPlanes_completes {w p row col limit : Nat} {ks : List Nat} {m : Memory}
    (inside : ∀ k ∈ ks, planeAddr w p k row col < limit) (written : m.WrittenBelow limit) (code : BitVec 4) :
    ∃ m', lightPlanes w p row col code ks m = .ok m' := by
  induction ks generalizing m with
  | nil => exact ⟨m, rfl⟩
  | cons k ks ih =>
    obtain ⟨hk, hks⟩ := List.forall_mem_cons.mp inside
    obtain ⟨m₁, first⟩ := lightPlane_completes (written _ hk) code
    obtain ⟨m', others⟩ := ih hks (lightPlane_keeps (keptBelow_writtenBelow limit limit) hk first written)
    exact ⟨m', by simp only [lightPlanes, first, others]⟩

/-- The addresses a pixel of the frame may write lie below `4P`. -/
theorem planeAddrs_lt {s : State} {row col : Nat} (hrow : row < s.height.toNat) (hcol : col < s.width.toNat) :
    ∀ k ∈ [0, 1, 2, 3], planeAddr s.width.toNat s.planeSize k row col < 4 * s.planeSize := by
  have planes : ∀ k ∈ [0, 1, 2, 3], k < 4 := by decide
  exact fun k hk => planeAddr_lt (planes k hk) hrow hcol

section
variable {s : State} {m : Memory}

theorem encodePixel_completes {row col : Nat} (hrow : row < s.height.toNat) (hcol : col < s.width.toNat)
    (loaded : (s.frame.read (frameAddr s.width.toNat row col)).isSome) (written : m.WrittenBelow (4 * s.planeSize))
    (c : Config) (u : Bool) : ∃ m', encodePixel c u s row col m = .ok m' := by
  obtain ⟨p, hp⟩ := Option.isSome_iff_exists.mp loaded
  unfold encodePixel
  rw [memReadFrame_ok.mpr hp]
  by_cases dark : dot p = 0#4
  · exact ⟨m, if_pos dark⟩
  · simp only [if_neg dark]
    exact lightPlanes_completes (planeAddrs_lt hrow hcol) written _

theorem encodePixels_completes {l : List (Nat × Nat)} (inFrame : ∀ x ∈ l, x.1 < s.height.toNat ∧ x.2 < s.width.toNat)
    (loaded : ∀ x ∈ l, (s.frame.read (frameAddr s.width.toNat x.1 x.2)).isSome)
    (written : m.WrittenBelow (4 * s.planeSize)) (c : Config) (u : Bool) :
    ∃ m', encodePixels c u s l m = .ok m' := by
  induction l generalizing m with
  | nil => exact ⟨m, rfl⟩
  | cons x l ih =>
    obtain ⟨⟨hrow, hcol⟩, inFrame⟩ := List.forall_mem_cons.mp inFrame
    obtain ⟨hx, loaded⟩ := List.forall_mem_cons.mp loaded
    obtain ⟨m₁, first⟩ := encodePixel_completes hrow hcol hx written c u
    obtain ⟨m', others⟩ := ih inFrame loaded (encodePixel_keeps (keptBelow_writtenBelow _ _) hrow hcol first written)
    exact ⟨m', by simp only [encodePixels, first, others]⟩

theorem encodedPlane_completes (loaded : s.frameLoaded) (c : Config) (u : Bool) : ∃ m, encodedPlane c u s = .ok m := by
  refine encodePixels_completes (fun _ => mem_pixelOrder.mp) (fun x hx => ?_) (zeroPlanes_writtenBelow _ _) c u
  obtain ⟨hrow, hcol⟩ := mem_pixelOrder.mp hx
  exact loaded _ (frameAddr_lt_pixelCount hrow hcol)

/-- After ENCODE every byte of the four planes holds a value, whatever PLANE held before. -/
theorem encodedPlane_writtenBelow {c : Config} {u : Bool} (encoded : encodedPlane c u s = .ok m) :
    m.WrittenBelow (4 * s.planeSize) :=
  encodePixels_keeps (keptBelow_writtenBelow _ _) (fun _ => mem_pixelOrder.mp) encoded (zeroPlanes_writtenBelow _ _)

end

/-- An ENCODE of 4 subframes whose frame fits ends as its passes end. -/
theorem exec_encode_of_fits {s : State} (fits : s.frameFits) (u : Bool) :
    (∃ f, encodedPlane Config.block u s = .error f ∧ exec (.encode u 4#4) s = .fault f) ∨
    ∃ m, encodedPlane Config.block u s = .ok m ∧ exec (.encode u 4#4) s = .next ((s.withPlane m).respond .ok 0#16) := by
  rcases encodeFrame_cases Config.block u 4#4 s with ⟨other, -⟩ | ⟨-, large, -⟩ | ⟨-, -, faults⟩ | ⟨-, -, completes⟩
  · exact absurd rfl other
  · exact absurd fits large
  · exact .inl faults
  · exact .inr completes

theorem exec_encode_of_loaded {s : State} (fits : s.frameFits) (loaded : s.frameLoaded) (u : Bool) :
    ∃ m, encodedPlane Config.block u s = .ok m ∧ exec (.encode u 4#4) s = .next ((s.withPlane m).respond .ok 0#16) := by
  obtain ⟨m, encoded⟩ := encodedPlane_completes loaded Config.block u
  rcases exec_encode_of_fits fits u with ⟨f, faulted, -⟩ | completes
  · cases encoded.symm.trans faulted
  · exact completes

theorem encodedPlane_of_exec_encode {s t : State} {u : Bool} (fits : s.frameFits)
    (h : exec (.encode u 4#4) s = .next t) : encodedPlane Config.block u s = .ok t.plane := by
  rcases exec_encode_of_fits fits u with ⟨f, -, faults⟩ | ⟨m, encoded, answered⟩
  · cases faults.symm.trans h
  · cases answered.symm.trans h
    exact encoded

/-! ### The bits of the planes (45_subframe_encoder.md R107)

A bit of PLANE only ever goes from 0 to 1 after the planes are zeroed, so it is 1 at the end exactly when some pixel set it:
pixels that share a bit are ORed (90_conflicts.md C4). -/

/-- Byte `a` holds a value, and its bit `j` is 1. -/
def Memory.HasBit (m : Memory) (a j : Nat) : Prop := ∃ v, m.read a = some v ∧ v.getLsbD j = true

theorem Memory.hasBit_iff {m : Memory} {a j : Nat} {v : Byte} (h : m.read a = some v) :
    m.HasBit a j ↔ v.getLsbD j = true := by
  simp [Memory.HasBit, h]

theorem Memory.hasBit_write_same (m : Memory) (a : Nat) (v : Byte) (j : Nat) :
    (m.write a v).HasBit a j ↔ v.getLsbD j = true := Memory.hasBit_iff (m.read_write_same a v)

theorem Memory.hasBit_write_other (m : Memory) {a b : Nat} (v : Byte) (h : a ≠ b) (j : Nat) :
    (m.write a v).HasBit b j ↔ m.HasBit b j := by
  simp only [Memory.HasBit, m.read_write_other v h]

theorem not_hasBit_zeroPlanes (m : Memory) {count a : Nat} (ha : a < count) (j : Nat) :
    ¬ (zeroPlanes m count).HasBit a j := by
  have zero : (zeroPlanes m count).read a = some 0#8 := by rw [zeroPlanes_read, if_pos ha]
  simp [Memory.hasBit_iff zero]

/-- Where both memories hold a value with the same bits, they read the same. -/
theorem Memory.read_eq_of_hasBit {m n : Memory} {a : Nat} (hm : (m.read a).isSome) (hn : (n.read a).isSome)
    (bits : ∀ j < 8, m.HasBit a j ↔ n.HasBit a j) : m.read a = n.read a := by
  obtain ⟨v, hv⟩ := Option.isSome_iff_exists.mp hm
  obtain ⟨w, hw⟩ := Option.isSome_iff_exists.mp hn
  have same : v = w := by
    refine BitVec.eq_of_getLsbD_eq fun j hj => Bool.eq_iff_iff.mpr ?_
    rw [← Memory.hasBit_iff hv, bits j hj, Memory.hasBit_iff hw]
  rw [hv, hw, same]

theorem getLsbD_one_iff (j : Nat) : (1#8).getLsbD j = true ↔ j = 0 := by
  simp [BitVec.getLsbD_one]

theorem getLsbD_or_oneBit (b : Byte) {i j : Nat} (hj : j < 8) :
    (b ||| 1#8 <<< i).getLsbD j = true ↔ b.getLsbD j = true ∨ i = j := by
  have oneBit : (1#8 <<< i).getLsbD j = true ↔ i = j := by
    simp only [BitVec.getLsbD_shiftLeft, getLsbD_one_iff, hj, decide_true, Bool.true_and, Bool.and_eq_true,
      Bool.not_eq_true', decide_eq_false_iff_not]
    omega
  rw [BitVec.getLsbD_or, Bool.or_eq_true, oneBit]

theorem lightPlane_hasBit {w p row col k j : Nat} {code : BitVec 4} {m m' : Memory}
    (h : lightPlane w p row col code k m = .ok m') (hj : j < 8) (a : Nat) :
    m'.HasBit a j ↔ m.HasBit a j ∨ code.getLsbD k = true ∧ planeAddr w p k row col = a ∧ col % 8 = j := by
  rcases lightPlane_ok h with ⟨dark, rfl⟩ | ⟨lit, b, hb, rfl⟩
  · simp [dark]
  · by_cases own : planeAddr w p k row col = a
    · subst own
      rw [Memory.hasBit_write_same, getLsbD_or_oneBit b hj, Memory.hasBit_iff hb]
      simp [lit]
    · simp [Memory.hasBit_write_other m _ own, own]

theorem lightPlanes_hasBit {w p row col j : Nat} {code : BitVec 4} {ks : List Nat} {m m' : Memory}
    (h : lightPlanes w p row col code ks m = .ok m') (hj : j < 8) (a : Nat) :
    m'.HasBit a j ↔
      m.HasBit a j ∨ ∃ k ∈ ks, code.getLsbD k = true ∧ planeAddr w p k row col = a ∧ col % 8 = j := by
  induction ks generalizing m with
  | nil => cases h; simp
  | cons k ks ih =>
    obtain ⟨m₁, first, others⟩ := lightPlanes_cons_ok h
    rw [ih others, lightPlane_hasBit first hj, or_assoc, List.exists_mem_cons_iff]

/-- Pixel (col, row) sets bit `j` of PLANE byte `a`: the byte is the pixel's in a plane that it lights, and the bit is the
pixel's in that byte. -/
def pixelSets (c : Config) (u : Bool) (s : State) (row col a j : Nat) : Prop :=
  ∃ k ∈ [0, 1, 2, 3], pixelLights c u s k row col ∧ planeAddr s.width.toNat s.planeSize k row col = a ∧ col % 8 = j

theorem planeByte_lt {k b size : Nat} (hk : k < 4) (hb : b < size) : k * size + b < 4 * size :=
  calc k * size + b < (k + 1) * size := by rw [add_one_mul]; omega
    _ ≤ 4 * size := Nat.mul_le_mul_right _ hk

section
variable {c : Config} {u : Bool} {s : State} {m m' : Memory} {j : Nat}

theorem encodePixel_hasBit {row col : Nat} (h : encodePixel c u s row col m = .ok m') (hj : j < 8) (a : Nat) :
    m'.HasBit a j ↔ m.HasBit a j ∨ pixelSets c u s row col a j := by
  obtain ⟨p, hp, ⟨dark, rfl⟩ | ⟨lit, planes⟩⟩ := encodePixel_ok h
  · simp [pixelSets, not_pixelLights_of_dot_zero hp dark]
  · simp only [lightPlanes_hasBit planes hj, pixelSets, pixelLights_iff hp, lit, ne_eq, not_false_eq_true, true_and]

theorem encodePixels_hasBit {l : List (Nat × Nat)} (h : encodePixels c u s l m = .ok m') (hj : j < 8) (a : Nat) :
    m'.HasBit a j ↔ m.HasBit a j ∨ ∃ x ∈ l, pixelSets c u s x.1 x.2 a j := by
  induction l generalizing m with
  | nil => cases h; simp
  | cons x l ih =>
    obtain ⟨m₁, first, others⟩ := encodePixels_cons_ok h
    rw [ih others, encodePixel_hasBit first hj, or_assoc, List.exists_mem_cons_iff]

/-- The bits of the encoded planes, by address: those that a pixel of the frame sets. -/
theorem encodedPlane_hasBit (encoded : encodedPlane c u s = .ok m) {a : Nat} (ha : a < 4 * s.planeSize) (hj : j < 8) :
    m.HasBit a j ↔ ∃ row col, row < s.height.toNat ∧ col < s.width.toNat ∧ pixelSets c u s row col a j := by
  rw [encodePixels_hasBit encoded hj]
  simp [not_hasBit_zeroPlanes s.plane ha, mem_pixelOrder, and_assoc]

/-- The PLANE address of a pixel names its plane and its byte there. -/
theorem planeAddr_eq_iff {k row col k' b : Nat} (hrow : row < s.height.toNat) (hcol : col < s.width.toNat)
    (hb : b < s.planeSize) :
    planeAddr s.width.toNat s.planeSize k row col = k' * s.planeSize + b ↔
      k = k' ∧ frameAddr s.width.toNat row col / 8 = b := by
  constructor
  · exact frameAddr_injective (pixelByte_lt_planeSize hrow hcol) hb
  · rintro ⟨rfl, rfl⟩
    rfl

theorem pixelSets_iff {row col k b : Nat} (hrow : row < s.height.toNat) (hcol : col < s.width.toNat) (hk : k < 4)
    (hb : b < s.planeSize) :
    pixelSets c u s row col (k * s.planeSize + b) j ↔
      frameAddr s.width.toNat row col / 8 = b ∧ col % 8 = j ∧ pixelLights c u s k row col := by
  have listed : k ∈ [0, 1, 2, 3] := by
    interval_cases k <;> decide
  simp only [pixelSets, planeAddr_eq_iff hrow hcol hb]
  constructor
  · rintro ⟨_, -, lights, ⟨rfl, byte⟩, bit⟩
    exact ⟨byte, bit, lights⟩
  · rintro ⟨byte, bit, lights⟩
    exact ⟨k, listed, lights, ⟨rfl, byte⟩, bit⟩

/-- The closed form of R107: bit `j` of byte `b` of plane `k`. -/
theorem encodedPlane_hasBit_iff (encoded : encodedPlane c u s = .ok m) {k b : Nat} (hk : k < 4) (hb : b < s.planeSize)
    (hj : j < 8) :
    m.HasBit (k * s.planeSize + b) j ↔
      ∃ row col, row < s.height.toNat ∧ col < s.width.toNat ∧ frameAddr s.width.toNat row col / 8 = b ∧
        col % 8 = j ∧ pixelLights c u s k row col := by
  rw [encodedPlane_hasBit encoded (planeByte_lt hk hb) hj]
  refine exists_congr fun row => exists_congr fun col => and_congr_right fun hrow => and_congr_right fun hcol => ?_
  exact pixelSets_iff hrow hcol hk hb

end

/-- Settles O42: the passes read only written bytes, and each bit is set by the pixels that light its plane there. -/
theorem encodeComputesTheFourPlanes : Obligations.EncodeComputesTheFourPlanes := by
  intro u s fits loaded
  obtain ⟨m, encoded, answered⟩ := exec_encode_of_loaded fits loaded u
  refine ⟨_, answered, rfl, rfl, rfl, rfl, rfl, ?_, fun a above => encodedPlane_read_above above encoded, ?_⟩
  · rw [State.respond_responses, responseWord_ok_zero, State.withPlane_responses]
  · intro k b hk hb
    obtain ⟨v, hv⟩ := Option.isSome_iff_exists.mp (encodedPlane_writtenBelow encoded _ (planeByte_lt hk hb))
    refine ⟨v, hv, fun j hj => ?_⟩
    rw [← Memory.hasBit_iff hv]
    exact encodedPlane_hasBit_iff encoded hk hb hj

/-- Two encodings of one frame over different contents of PLANE agree on the planes. -/
theorem encodedPlane_read_eq {c : Config} {u : Bool} {s : State} {plane m m' : Memory} {a : Nat}
    (encoded : encodedPlane c u s = .ok m) (encoded' : encodedPlane c u (s.withPlane plane) = .ok m')
    (ha : a < 4 * s.planeSize) : m.read a = m'.read a := by
  refine Memory.read_eq_of_hasBit (encodedPlane_writtenBelow encoded a ha) (encodedPlane_writtenBelow encoded' a ha)
    fun j hj => ?_
  rw [encodedPlane_hasBit encoded ha hj]
  exact (encodedPlane_hasBit encoded' ha hj).symm

/-- Settles O43: but for PLANE the second state encodes as the first, and the contents of PLANE do not matter. -/
theorem encodeDependsOnlyOnDotsAndMap : Obligations.EncodeDependsOnlyOnDotsAndMap := by
  intro u s s' t t' width height fits dots entries h h' a ha
  have fits' : s'.frameFits := by
    rwa [State.frameFits, State.planeSize, State.pixelCount, ← width, ← height]
  have alike : encodedPlane Config.block u s' = encodedPlane Config.block u (s.withPlane s'.plane) :=
    encodedPlane_congr width.symm height.symm rfl (fun b hb => (dots b hb).symm) fun d nonzero =>
      finalCode_congr fun used => (entries used d nonzero).symm
  exact encodedPlane_read_eq (encodedPlane_of_exec_encode fits h)
    (alike.symm.trans (encodedPlane_of_exec_encode fits' h')) ha

/-! ### The source's example (45_subframe_encoder.md R106) -/

/-- The pixel of dot 15 lights every plane, since HWMAP fixes 15, and the pixel of dot 0 lights none. -/
theorem twoByOne_pixelLights_iff {c : Config} {u : Bool} {s : State} {k col : Nat}
    (first : s.frame.read 0 = some 0x0F#8) (second : s.frame.read 1 = some 0x00#8)
    (entry : u = true → s.readCmap 15#4 = 15#4) (hk : k < 4) (hcol : col < 2) : pixelLights c u s k 0 col ↔ col = 0 := by
  interval_cases col
  · have hp : s.frame.read (frameAddr s.width.toNat 0 0) = some 0x0F#8 := by rwa [frameAddr, zero_mul]
    have code : finalCode c u s (dot 0x0F#8) = 15#4 := by
      obtain ⟨-, -, -, fixed⟩ := hwmapMovesEachBitByThePermutation c.bitOrder
      exact (finalCode_of_identity entry c).trans fixed
    rw [pixelLights_iff hp, code]
    interval_cases k <;> decide
  · have hp : s.frame.read (frameAddr s.width.toNat 0 1) = some 0x00#8 := by rwa [frameAddr, zero_mul]
    simp [not_pixelLights_of_dot_zero hp rfl]

/-- Settles O45: the planes are one byte each, and their only lit pixel is in column 0. -/
theorem twoByOneFrameLightsBitZeroOfEachPlane : Obligations.TwoByOneFrameLightsBitZeroOfEachPlane := by
  intro u s width height first second entry
  have count : s.pixelCount = 2 := by
    rw [State.pixelCount, width, height]
    rfl
  have size : s.planeSize = 1 := by rw [s.planeSize_eq, count]
  have fits : s.frameFits := by
    rw [State.frameFits, count, size]
    decide
  have loaded : s.frameLoaded := by
    intro a ha
    rw [count] at ha
    interval_cases a
    · rw [first]; rfl
    · rw [second]; rfl
  obtain ⟨t, answered, -, -, -, -, -, -, above, planes⟩ := encodeComputesTheFourPlanes u s fits loaded
  rw [size] at above planes
  have byte : ∀ k < 4, t.plane.read k = some 0x01#8 := by
    intro k hk
    obtain ⟨v, hv, bits⟩ := planes k 0 hk one_pos
    have value : v = 0x01#8 := by
      refine BitVec.eq_of_getLsbD_eq fun j hj => Bool.eq_iff_iff.mpr ?_
      rw [bits j hj, getLsbD_one_iff, width, height]
      constructor
      · rintro ⟨row, col, hrow, hcol, -, rfl, lights⟩
        obtain rfl : row = 0 := Nat.lt_one_iff.mp hrow
        rw [(twoByOne_pixelLights_iff first second entry hk hcol).mp lights]
      · rintro rfl
        exact ⟨0, 0, by decide, by decide, rfl, rfl,
          (twoByOne_pixelLights_iff first second entry hk two_pos).mpr rfl⟩
    rwa [mul_one, add_zero, value] at hv
  exact ⟨t, answered, byte 0 (by decide), byte 1 (by decide), byte 2 (by decide), byte 3 (by decide), above⟩

end Sys2Proof.Machine
end

section
/-! The statements of 48_host_and_control.md: NOP (R120), READ_CFG (R121, R122), the host access commands (R123 to R126),
and where an accepted ENCODE faults (R127). -/

namespace Sys2Proof

/-- A format without reserved bits makes every word of its opcode a command. -/
theorem decode_of_no_reserved {w : Word} {i : Instr} (opcode : opcField w = i.opc) (unreserved : i.reserved = 0#32) :
    decode w = .ok (i.withFields w) := by
  rw [decode_of_opc opcode, unreserved, BitVec.and_zero, if_pos rfl]

end Sys2Proof

namespace Sys2Proof.Machine

/-! ### Where ENCODE faults (48_host_and_control.md R127, 60_exceptions.md R144)

The pixels are visited in the order of their FRAME addresses, so every pixel before the first unwritten byte completes. -/

theorem pixelOrder_ascending (width height : Nat) :
    (pixelOrder width height).Pairwise fun x y => frameAddr width x.1 x.2 < frameAddr width y.1 y.2 := by
  refine List.pairwise_flatMap.mpr ⟨fun row _ => ?_, List.pairwise_lt_range.imp fun {row row'} later => ?_⟩
  · exact List.pairwise_map.mpr (List.pairwise_lt_range.imp fun further => Nat.add_lt_add_left further _)
  · simp only [List.forall_mem_map, List.mem_range]
    intro col hcol col' _
    calc row * width + col < (row + 1) * width := by rw [add_one_mul]; omega
      _ ≤ row' * width := Nat.mul_le_mul_right _ later
      _ ≤ row' * width + col' := Nat.le_add_right _ _

/-- Every FRAME address below `N` is that of a pixel of the frame. -/
theorem exists_pixel_of_lt {s : State} {a : Nat} (ha : a < s.pixelCount) :
    ∃ x ∈ pixelOrder s.width.toNat s.height.toNat, frameAddr s.width.toNat x.1 x.2 = a := by
  rw [State.pixelCount, mul_comm] at ha
  have width_pos : 0 < s.width.toNat := Nat.pos_of_mul_pos_left (Nat.zero_lt_of_lt ha)
  exact ⟨(a / s.width.toNat, a % s.width.toNat),
    mem_pixelOrder.mpr ⟨Nat.div_lt_of_lt_mul (by rwa [mul_comm]), Nat.mod_lt _ width_pos⟩, Nat.div_add_mod' _ _⟩

section
variable {s : State} {m : Memory}

theorem encodePixel_of_unwritten {row col : Nat} (unwritten : s.frame.read (frameAddr s.width.toNat row col) = none)
    (c : Config) (u : Bool) :
    encodePixel c u s row col m = .error (.unwrittenFrame (frameAddr s.width.toNat row col)) := by
  rw [encodePixel, memReadFrame_error.mpr ⟨unwritten, rfl⟩]

/-- Pixels visited in the order of their addresses fault at the first whose byte is unwritten. -/
theorem encodePixels_of_first_unwritten {l : List (Nat × Nat)} {x : Nat × Nat}
    (ascending : l.Pairwise fun y z => frameAddr s.width.toNat y.1 y.2 < frameAddr s.width.toNat z.1 z.2)
    (inFrame : ∀ y ∈ l, y.1 < s.height.toNat ∧ y.2 < s.width.toNat) (visited : x ∈ l)
    (unwritten : s.frame.read (frameAddr s.width.toNat x.1 x.2) = none)
    (before : ∀ b < frameAddr s.width.toNat x.1 x.2, (s.frame.read b).isSome)
    (zeroed : m.WrittenBelow (4 * s.planeSize)) (c : Config) (u : Bool) :
    encodePixels c u s l m = .error (.unwrittenFrame (frameAddr s.width.toNat x.1 x.2)) := by
  induction l generalizing m with
  | nil => cases visited
  | cons y l ih =>
    obtain ⟨first, ascending⟩ := List.pairwise_cons.mp ascending
    obtain ⟨⟨hrow, hcol⟩, inFrame⟩ := List.forall_mem_cons.mp inFrame
    rcases List.mem_cons.mp visited with rfl | later
    · simp only [encodePixels, encodePixel_of_unwritten unwritten]
    · obtain ⟨m₁, completes⟩ := encodePixel_completes hrow hcol (before _ (first x later)) zeroed c u
      simp only [encodePixels, completes]
      exact ih ascending inFrame later (encodePixel_keeps (keptBelow_writtenBelow _ _) hrow hcol completes zeroed)

theorem encodedPlane_of_first_unwritten {a : Nat} (ha : a < s.pixelCount) (unwritten : s.frame.read a = none)
    (before : ∀ b < a, (s.frame.read b).isSome) (c : Config) (u : Bool) :
    encodedPlane c u s = .error (.unwrittenFrame a) := by
  obtain ⟨x, visited, rfl⟩ := exists_pixel_of_lt ha
  exact encodePixels_of_first_unwritten (pixelOrder_ascending _ _) (fun _ => mem_pixelOrder.mp) visited unwritten before
    (zeroPlanes_writtenBelow _ _) c u

end

/-- Settles O44: the passes reach the byte, since every byte of the frame before it is written. -/
theorem encodeFaultsAtTheFirstUnwrittenByte : Obligations.EncodeFaultsAtTheFirstUnwrittenByte := by
  intro u s a fits ha unwritten before
  have stops := encodedPlane_of_first_unwritten ha unwritten before Config.block u
  rcases exec_encode_of_fits fits u with ⟨f, faulted, faults⟩ | ⟨m, encoded, -⟩
  · cases stops.symm.trans faulted
    exact faults
  · cases stops.symm.trans encoded

/-! ### Responses that carry a value (30_encoding.md R70) -/

theorem responseWord_ok (data : BitVec 16) : responseWord .ok data = data.setWidth 32 := by
  simp [responseWord, Status.code, atBit]

theorem responseWord_badSelector : responseWord .badSelector 0#16 = 0x30000000#32 := by decide

theorem responseWord_addrRange : responseWord .addrRange 0#16 = 0x60000000#32 := by decide

/-- An answer of a narrower value, zero-extended twice. -/
theorem finish_setWidth {n : Nat} (narrow : n ≤ 16) (s : State) (v : BitVec n) :
    finish s (v.setWidth 16) = .next { s with responses := s.responses ++ [v.setWidth 32] } := by
  rw [finish, State.respond, responseWord_ok, BitVec.setWidth_setWidth fun ⟨cut, _⟩ => cut.not_ge narrow]

theorem reject_badSelector (s : State) :
    reject s .badSelector = .next { s with responses := s.responses ++ [0x30000000#32] } := by
  rw [reject, State.respond, responseWord_badSelector]

theorem reject_addrRange (s : State) :
    reject s .addrRange = .next { s with responses := s.responses ++ [0x60000000#32] } := by
  rw [reject, State.respond, responseWord_addrRange]

/-! ### NOP (48_host_and_control.md R120) -/

/-- Settles O28: every bit of the word but the opcode is reserved. -/
theorem nopCompletes : Obligations.NopCompletes := by
  refine ⟨fun s => finish_setWidth le_rfl s 0#16, rfl, fun w => ⟨fun decoded => ?_, ?_⟩,
    fun w opcode set => decode_of_reserved_field (i := .nop) opcode rfl (by decide) set⟩
  · obtain ⟨whole, -⟩ := matches_of_decode decoded
    exact BitVec.and_allOnes.symm.trans whole
  · rintro rfl
    exact decodeReadsBackEveryEncodedCommand .nop

/-! ### READ_CFG (48_host_and_control.md R121, R122) -/

/-- A selector is its high digit, the row of R121's table, and its low digit, the entry. -/
theorem selector_toNat (high low : BitVec 4) : (high ++ low).toNat = 16 * high.toNat + low.toNat := by
  rw [BitVec.toNat_append, ← Nat.shiftLeft_add_eq_or_of_lt low.isLt, Nat.shiftLeft_eq, mul_comm]

section
variable (c : Config) (s : State)

theorem cfgValue_cmap (i : BitVec 4) : cfgValue c (0x0#4 ++ i) s = some ((s.readCmap i).setWidth 16) := by
  have inRow : (0x0#4 ++ i).toNat ≤ 0x0F := by
    rw [selector_toNat, BitVec.toNat_ofNat, Nat.zero_mod, mul_zero, zero_add]
    exact lane_le i
  rw [cfgValue, if_pos inRow, BitVec.setWidth_append_eq_right]

theorem cfgValue_width : cfgValue c 0x10#8 s = some s.width := rfl

theorem cfgValue_height : cfgValue c 0x11#8 s = some s.height := rfl

theorem cfgValue_hwmap (code : BitVec 4) :
    cfgValue c (0x2#4 ++ code) s = some ((hwmap c.bitOrder code).setWidth 16) := by
  have value : (0x2#4 ++ code).toNat = 0x20 + code.toNat := selector_toNat 0x2#4 code
  rw [cfgValue, if_neg (by omega), if_neg (by omega), if_neg (by omega), if_pos (by omega), value,
    Nat.add_sub_cancel_left, BitVec.ofNat_toNat, BitVec.setWidth_eq]

theorem cfgValue_undefined {sel : BitVec 8} (undefined : 0x12 ≤ sel.toNat ∧ sel.toNat ≤ 0x1F ∨ 0x30 ≤ sel.toNat) :
    cfgValue c sel s = none := by
  rw [cfgValue, if_neg (by omega), if_neg (by omega), if_neg (by omega), if_neg (by omega)]

end

theorem exec_readCfg_of_some {sel : BitVec 8} {s : State} {n : Nat} {v : BitVec n} (narrow : n ≤ 16)
    (named : cfgValue Config.block sel s = some (v.setWidth 16)) :
    exec (.readCfg sel) s = .next { s with responses := s.responses ++ [v.setWidth 32] } := by
  rw [← finish_setWidth narrow]
  rcases readCfg_cases Config.block sel s with ⟨v', same, answered⟩ | ⟨unnamed, -⟩
  · cases named.symm.trans same
    exact answered
  · cases named.symm.trans unnamed

theorem exec_readCfg_of_none {sel : BitVec 8} {s : State} (unnamed : cfgValue Config.block sel s = none) :
    exec (.readCfg sel) s = .next { s with responses := s.responses ++ [0x30000000#32] } := by
  rw [← reject_badSelector]
  rcases readCfg_cases Config.block sel s with ⟨v, named, -⟩ | ⟨-, rejected⟩
  · cases unnamed.symm.trans named
  · exact rejected

theorem exec_readCfg_width (s : State) :
    exec (.readCfg 0x10#8) s = .next { s with responses := s.responses ++ [s.width.setWidth 32] } :=
  exec_readCfg_of_some le_rfl (by rw [cfgValue_width, BitVec.setWidth_eq])

theorem exec_readCfg_height (s : State) :
    exec (.readCfg 0x11#8) s = .next { s with responses := s.responses ++ [s.height.setWidth 32] } :=
  exec_readCfg_of_some le_rfl (by rw [cfgValue_height, BitVec.setWidth_eq])

/-- Settles O33: by the rows of R121's table. -/
theorem readCfgAnswersEverySelector : Obligations.ReadCfgAnswersEverySelector := by
  refine ⟨fun s => ⟨fun i => exec_readCfg_of_some (by decide) (cfgValue_cmap _ s i), exec_readCfg_width s,
      exec_readCfg_height s, fun code => exec_readCfg_of_some (by decide) (cfgValue_hwmap _ s code),
      fun sel undefined => exec_readCfg_of_none (cfgValue_undefined _ s undefined)⟩,
    fun sel => or_atBit_toNat 0x70000000 0 sel,
    fun w opcode set => decode_of_reserved_field (i := .readCfg 0) opcode rfl (by decide) set, ?_⟩
  have runs := runWord_of_decode (decodeReadsBackEveryEncodedCommand (.readCfg 0x10#8)) State.reset
  exact ⟨_, runs.trans (exec_readCfg_width State.reset), rfl⟩

/-! ### The host's writes (48_host_and_control.md R123, R125) -/

section
variable {addr : BitVec 20} {data : BitVec 8} {s : State}

theorem exec_frameWr_of_lt (inside : addr.toNat < 4096) :
    exec (.frameWr addr data) s = .next ((s.withFrame (s.frame.write addr.toNat data)).respond .ok 0#16) :=
  if_neg inside.not_ge

theorem exec_frameWr_of_ge (outside : 4096 ≤ addr.toNat) :
    exec (.frameWr addr data) s = .next { s with responses := s.responses ++ [0x60000000#32] } :=
  (if_pos outside).trans (reject_addrRange s)

theorem exec_planeWr_of_lt (inside : addr.toNat < 2048) :
    exec (.planeWr addr data) s = .next ((s.withPlane (s.plane.write addr.toNat data)).respond .ok 0#16) :=
  if_neg inside.not_ge

theorem exec_planeWr_of_ge (outside : 2048 ≤ addr.toNat) :
    exec (.planeWr addr data) s = .next { s with responses := s.responses ++ [0x60000000#32] } :=
  (if_pos outside).trans (reject_addrRange s)

end

/-- ENCODE sees only the dot of a byte of FRAME (45_subframe_encoder.md R107). -/
theorem encodedPlane_writeFrame_congr {v v' : Byte} (sameDot : dot v = dot v') (c : Config) (u : Bool) (s : State)
    (a : Nat) :
    encodedPlane c u (s.withFrame (s.frame.write a v)) = encodedPlane c u (s.withFrame (s.frame.write a v')) := by
  refine encodedPlane_congr rfl rfl rfl (fun b _ => ?_) fun _ _ => rfl
  simp only [State.withFrame_frame, Memory.read_write]
  split
  · exact congrArg some sameDot
  · rfl

/-- Settles O46: the command is one write of FRAME, and ENCODE sees only dots. -/
theorem frameWrStoresOneByte : Obligations.FrameWrStoresOneByte := by
  refine ⟨fun addr data s => ⟨fun inside => ⟨_, exec_frameWr_of_lt inside, ?_⟩, exec_frameWr_of_ge⟩,
    fun addr data => or_atBit_or_atBit_toNat 0x90000000 8 addr data,
    fun w opcode => ⟨_, _, decode_of_no_reserved (i := .frameWr 0 0) opcode rfl⟩,
    fun c u s a v v' sameDot => encodedPlane_writeFrame_congr sameDot c u s a⟩
  exact ⟨Memory.read_write_same _ _ _, fun a other => Memory.read_write_other _ _ other.symm, rfl, rfl, rfl, rfl, rfl,
    by rw [State.respond_responses, responseWord_ok_zero, State.withFrame_responses]⟩

/-- Settles O48: the command is one write of PLANE; a later ENCODE computes its planes whatever PLANE held, and leaves the
bytes above them. -/
theorem planeWrStoresOneByte : Obligations.PlaneWrStoresOneByte := by
  refine ⟨fun addr data s => ⟨fun inside => ⟨_, exec_planeWr_of_lt inside, ?_⟩, exec_planeWr_of_ge⟩,
    fun addr data => or_atBit_or_atBit_toNat 0xB0000000 8 addr data,
    fun w opcode => ⟨_, _, decode_of_no_reserved (i := .planeWr 0 0) opcode rfl⟩, fun u s t t' a v fits h h' => ?_⟩
  · exact ⟨Memory.read_write_same _ _ _, fun a other => Memory.read_write_other _ _ other.symm, rfl, rfl, rfl, rfl, rfl,
      by rw [State.respond_responses, responseWord_ok_zero, State.withPlane_responses]⟩
  · have encoded := encodedPlane_of_exec_encode fits h
    have encoded' := encodedPlane_of_exec_encode (s := s.withPlane (s.plane.write a v)) fits h'
    refine ⟨fun b below => (encodedPlane_read_eq encoded encoded' below).symm, fun above => ?_⟩
    calc t'.plane.read a = (s.plane.write a v).read a := encodedPlane_read_above (s := s.withPlane _) above encoded'
      _ = some v := s.plane.read_write_same a v

/-! ### The host's reads (48_host_and_control.md R124, R126, R127) -/

section
variable {addr : BitVec 20} {v : Byte} {s : State}

theorem exec_frameRd_of_some (inside : addr.toNat < 4096) (written : s.frame.read addr.toNat = some v) :
    exec (.frameRd addr) s = .next { s with responses := s.responses ++ [v.setWidth 32] } := by
  rw [← finish_setWidth (by decide)]
  exact (if_neg inside.not_ge).trans (by rw [memReadFrame_ok.mpr written])

theorem exec_frameRd_of_none (inside : addr.toNat < 4096) (unwritten : s.frame.read addr.toNat = none) :
    exec (.frameRd addr) s = .fault (.unwrittenFrame addr.toNat) :=
  (if_neg inside.not_ge).trans (by rw [memReadFrame_error.mpr ⟨unwritten, rfl⟩])

theorem exec_frameRd_of_ge (outside : 4096 ≤ addr.toNat) :
    exec (.frameRd addr) s = .next { s with responses := s.responses ++ [0x60000000#32] } :=
  (if_pos outside).trans (reject_addrRange s)

theorem exec_planeRd_of_some (inside : addr.toNat < 2048) (written : s.plane.read addr.toNat = some v) :
    exec (.planeRd addr) s = .next { s with responses := s.responses ++ [v.setWidth 32] } := by
  rw [← finish_setWidth (by decide)]
  exact (if_neg inside.not_ge).trans (by rw [memReadPlane_ok.mpr written])

theorem exec_planeRd_of_none (inside : addr.toNat < 2048) (unwritten : s.plane.read addr.toNat = none) :
    exec (.planeRd addr) s = .fault (.unwrittenPlane addr.toNat) :=
  (if_neg inside.not_ge).trans (by rw [memReadPlane_error.mpr ⟨unwritten, rfl⟩])

theorem exec_planeRd_of_ge (outside : 2048 ≤ addr.toNat) :
    exec (.planeRd addr) s = .next { s with responses := s.responses ++ [0x60000000#32] } :=
  (if_pos outside).trans (reject_addrRange s)

end

/-- Settles O47: by what FRAME holds at the address; the example reads back what FRAME_WR stored. -/
theorem frameRdAnswersOneByte : Obligations.FrameRdAnswersOneByte := by
  refine ⟨fun addr s => ⟨fun v => exec_frameRd_of_some, exec_frameRd_of_none, exec_frameRd_of_ge⟩,
    fun addr => or_atBit_toNat 0xA0000000 8 addr,
    fun w opcode set => decode_of_reserved_field (i := .frameRd 0) opcode rfl (by decide) set, fun s t stored => ?_⟩
  obtain ⟨writes, -⟩ := frameWrStoresOneByte
  obtain ⟨inRange, -⟩ := writes 0#20 0x0F#8 s
  obtain ⟨t', stored', written, -⟩ := inRange (by decide)
  cases stored.symm.trans stored'
  exact exec_frameRd_of_some (by decide) written

/-- Settles O49: by what PLANE holds at the address. -/
theorem planeRdAnswersOneByte : Obligations.PlaneRdAnswersOneByte := by
  refine ⟨fun addr s => ⟨fun v => exec_planeRd_of_some, exec_planeRd_of_none, exec_planeRd_of_ge⟩,
    fun addr => or_atBit_toNat 0xC0000000 8 addr,
    fun w opcode set => decode_of_reserved_field (i := .planeRd 0) opcode rfl (by decide) set⟩

end Sys2Proof.Machine
end

section
/-! The statements of 60_exceptions.md: rejection (R141), the order of the checks (R142), inputs that are no errors
(R143), where the model faults (R144), and the idle block (R153). -/

namespace Sys2Proof

/-! ### The reserved bits of a format lie side by side (30_encoding.md R62) -/

/-- A field of a word is 0 when the word has no bit there. -/
theorem and_atBit_allOnes_eq_zero_iff (w : Word) {lo n : Nat} (inside : lo + n ≤ 32) :
    w &&& atBit (BitVec.allOnes n) lo = 0#32 ↔ w.extractLsb' lo n = 0#n := by
  rw [← atBit_extractLsb']
  constructor
  · intro clear
    rw [← extractLsb'_atBit (w.extractLsb' lo n) inside, clear, BitVec.extractLsb'_zero]
  · intro clear
    simp [clear, atBit]

/-- Where the reserved bits of each command's format lie: the lowest of them and their number, 0 where the format has
none (30_encoding.md R62). -/
@[simp] def Instr.reservedPlace : Instr → Nat × Nat
  | .nop => (0, 28)
  | .blendAlpha _ _ => (16, 12)
  | .blendAlphaBoth _ _ => (16, 12)
  | .setCmap _ _ => (8, 20)
  | .resetCmap => (0, 28)
  | .setWidth _ => (16, 12)
  | .setHeight _ => (16, 12)
  | .readCfg _ => (8, 20)
  | .encode _ _ => (5, 23)
  | .frameWr _ _ => (0, 0)
  | .frameRd _ => (0, 8)
  | .planeWr _ _ => (0, 0)
  | .planeRd _ => (0, 8)

theorem Instr.reserved_eq_atBit (i : Instr) :
    i.reserved = atBit (BitVec.allOnes i.reservedPlace.2) i.reservedPlace.1 := by
  cases i <;> simp [Instr.reserved, atBit]

theorem Instr.reservedPlace_inside (i : Instr) : i.reservedPlace.1 + i.reservedPlace.2 ≤ 32 := by
  cases i <;> simp

theorem Instr.and_reserved_eq_zero_iff (i : Instr) (w : Word) :
    w &&& i.reserved = 0#32 ↔ w.extractLsb' i.reservedPlace.1 i.reservedPlace.2 = 0#i.reservedPlace.2 := by
  rw [i.reserved_eq_atBit, and_atBit_allOnes_eq_zero_iff w i.reservedPlace_inside]

end Sys2Proof

namespace Sys2Proof.Machine

/-! ### The idle block (60_exceptions.md R153) -/

/-- Settles O9: of the three things a step can do, the other two take an input. -/
theorem idleStepKeepsAllState : Obligations.IdleStepKeepsAllState := by
  intro s idle
  rcases step_cases s with ⟨-, kept⟩ | ⟨w, rest, sent, -⟩ | ⟨rest, sent, -⟩
  · exact kept
  all_goals cases idle.symm.trans sent

/-! ### Inputs that are no errors (60_exceptions.md R143) -/

section
variable {s : State} (empty : s.width = 0#16 ∨ s.height = 0#16)
include empty

theorem pixelCount_of_empty : s.pixelCount = 0 := by
  rcases empty with empty | empty <;> simp [State.pixelCount, empty]

theorem frameFits_of_empty : s.frameFits := by
  simp [State.frameFits, State.planeSize_eq, pixelCount_of_empty empty]

/-- A frame without pixels has no plane byte to zero and no pixel to visit. -/
theorem encodedPlane_of_empty (c : Config) (u : Bool) : encodedPlane c u s = .ok s.plane := by
  have noByte : s.planeSize = 0 := by rw [State.planeSize_eq, pixelCount_of_empty empty]
  have noPixel : pixelOrder s.width.toNat s.height.toNat = [] := by
    refine List.eq_nil_iff_forall_not_mem.mpr fun x visited => ?_
    obtain ⟨hrow, hcol⟩ := mem_pixelOrder.mp visited
    have address := frameAddr_lt_pixelCount hrow hcol
    rw [pixelCount_of_empty empty] at address
    exact absurd address (Nat.not_lt_zero _)
  rw [encodedPlane, noByte, noPixel]
  rfl

end

/-- Settles O41: an empty frame passes ENCODE's checks and leaves PLANE as it is; both blends only complete. -/
theorem degenerateInputsAreNoErrors : Obligations.DegenerateInputsAreNoErrors := by
  refine ⟨fun u s empty => ?_, fun src dst s => ⟨?_, ?_⟩⟩
  · have unchanged := encodedPlane_of_empty empty Config.block u
    rcases exec_encode_of_fits (frameFits_of_empty empty) u with ⟨f, faulted, -⟩ | ⟨m, encoded, answered⟩
    · cases unchanged.symm.trans faulted
    · cases unchanged.symm.trans encoded
      rw [answered, State.respond, responseWord_ok_zero]
      rfl
  · exact ⟨_, _, rfl, rfl, responseWord_status .ok _⟩
  · exact ⟨_, _, rfl, rfl, responseWord_status .ok _⟩

/-! ### Rejection (60_exceptions.md R141) -/

theorem responseWord_reject_low (code : Status) : (responseWord code 0#16).extractLsb' 0 28 = 0#28 := by
  cases code <;> decide

/-- Settles O13: a command that completes answers OK, so a response of another status is a rejection's. -/
theorem rejectionChangesNoState : Obligations.RejectionChangesNoState := by
  intro s t w r rest hs h answered notOk
  rw [step_of_command hs] at h
  rcases runWord_next h with ⟨i, u, data, -, writes, rfl, -⟩ | ⟨code, rfl⟩
  · obtain ⟨-, responses⟩ := writes.keeps_port
    rw [State.respond_responses, responses] at answered
    cases List.append_cancel_left answered
    exact absurd (responseWord_status .ok data) notOk
  · cases List.append_cancel_left answered
    exact ⟨responseWord_reject_low code, rfl⟩

/-! ### Where the model faults (60_exceptions.md R144) -/

/-- `FaultsAt s i f`: from `s`, command `i` reads the byte that `f` names, which nothing has written. -/
inductive FaultsAt (s : State) : Instr → Fault → Prop
  | frameByte {addr : BitVec 20} (inside : addr.toNat < 4096) (unwritten : s.frame.read addr.toNat = none) :
      FaultsAt s (.frameRd addr) (.unwrittenFrame addr.toNat)
  | planeByte {addr : BitVec 20} (inside : addr.toNat < 2048) (unwritten : s.plane.read addr.toNat = none) :
      FaultsAt s (.planeRd addr) (.unwrittenPlane addr.toNat)
  | pixel {u : Bool} {a : Nat} (fits : s.frameFits) (inFrame : a < s.pixelCount) (unwritten : s.frame.read a = none) :
      FaultsAt s (.encode u 4#4) (.unwrittenFrame a)

theorem exists_first_unwritten {s : State} (notLoaded : ¬ s.frameLoaded) :
    ∃ a < s.pixelCount, s.frame.read a = none ∧ ∀ b < a, (s.frame.read b).isSome := by
  have missing : ∃ a, a < s.pixelCount ∧ s.frame.read a = none := by simpa using notLoaded
  obtain ⟨inFrame, unwritten⟩ := Nat.find_spec missing
  refine ⟨Nat.find missing, inFrame, unwritten, fun b before => ?_⟩
  rw [← Option.ne_none_iff_isSome]
  exact fun absent => Nat.find_min missing before ⟨before.trans inFrame, absent⟩

/-- ENCODE's passes fault only at an unwritten byte of the frame: PLANE is zeroed before it is read. -/
theorem encodedPlane_error {c : Config} {u : Bool} {s : State} {f : Fault} (h : encodedPlane c u s = .error f) :
    ∃ a < s.pixelCount, s.frame.read a = none ∧ f = .unwrittenFrame a := by
  by_cases loaded : s.frameLoaded
  · obtain ⟨m, encoded⟩ := encodedPlane_completes loaded c u
    cases encoded.symm.trans h
  · obtain ⟨a, inFrame, unwritten, before⟩ := exists_first_unwritten loaded
    cases (encodedPlane_of_first_unwritten inFrame unwritten before c u).symm.trans h
    exact ⟨a, inFrame, unwritten, rfl⟩

theorem exec_fault {i : Instr} {s : State} {f : Fault} (h : exec i s = .fault f) : FaultsAt s i f := by
  cases i with
  | nop | blendAlpha | blendAlphaBoth | setCmap | resetCmap | setWidth | setHeight => cases h
  | readCfg sel =>
    rcases readCfg_cases Config.block sel s with ⟨v, -, ends⟩ | ⟨-, ends⟩
    all_goals cases ends.symm.trans h
  | encode u nsub =>
    rcases encodeFrame_cases Config.block u nsub s with
      ⟨-, ends⟩ | ⟨-, -, ends⟩ | ⟨rfl, fits, f', faulted, ends⟩ | ⟨-, -, m, -, ends⟩
    all_goals cases ends.symm.trans h
    obtain ⟨a, inFrame, unwritten, rfl⟩ := encodedPlane_error faulted
    exact .pixel fits inFrame unwritten
  | frameWr addr data =>
    rcases frameWr_cases Config.block addr data s with ⟨-, ends⟩ | ⟨-, ends⟩
    all_goals cases ends.symm.trans h
  | frameRd addr =>
    rcases frameRd_cases Config.block addr s with ⟨-, ends⟩ | ⟨inside, unwritten, ends⟩ | ⟨-, v, -, ends⟩
    all_goals cases ends.symm.trans h
    exact .frameByte inside unwritten
  | planeWr addr data =>
    rcases planeWr_cases Config.block addr data s with ⟨-, ends⟩ | ⟨-, ends⟩
    all_goals cases ends.symm.trans h
  | planeRd addr =>
    rcases planeRd_cases Config.block addr s with ⟨-, ends⟩ | ⟨inside, unwritten, ends⟩ | ⟨-, v, -, ends⟩
    all_goals cases ends.symm.trans h
    exact .planeByte inside unwritten

theorem exec_ne_refused (i : Instr) (s : State) (r : Refusal) : exec i s ≠ .refused r := by
  intro h
  rcases exec_cases i s with ⟨u, status, data, -, answered⟩ | ⟨f, faults⟩
  · cases answered.symm.trans h
  · cases faults.symm.trans h

theorem runWord_ne_refused (w : Word) (s : State) (r : Refusal) : runWord w s ≠ .refused r := by
  rcases runWord_cases w s with ⟨i, -, runs⟩ | ⟨e, -, rejected⟩
  · rw [runs]
    exact exec_ne_refused i s r
  · rw [rejected]
    exact reject_ne_refused

theorem runWord_fault {w : Word} {s : State} {f : Fault} (h : runWord w s = .fault f) :
    ∃ i, decode w = .ok i ∧ FaultsAt s i f := by
  rcases runWord_cases w s with ⟨i, decoded, runs⟩ | ⟨e, -, rejected⟩
  · exact ⟨i, decoded, exec_fault (runs.symm.trans h)⟩
  · cases rejected.symm.trans h

/-- Settles O15: only a command word can stop the run, and it stops at the byte its command reads. -/
theorem faultsAreReadsOfUnwrittenBytes : Obligations.FaultsAreReadsOfUnwrittenBytes := by
  constructor
  · intro s r h
    rcases step_cases s with ⟨-, idle⟩ | ⟨w, rest, -, runs⟩ | ⟨rest, -, resets⟩
    · cases idle.symm.trans h
    · exact runWord_ne_refused w _ r (runs.symm.trans h)
    · cases resets.symm.trans h
  · intro s f h
    rcases step_cases s with ⟨-, idle⟩ | ⟨w, rest, sent, runs⟩ | ⟨rest, -, resets⟩
    · cases idle.symm.trans h
    · obtain ⟨i, decoded, fault⟩ := runWord_fault (runs.symm.trans h)
      refine ⟨w, rest, i, sent, decoded, ?_⟩
      cases fault with
      | frameByte inside unwritten => exact .inl ⟨_, rfl, inside, unwritten, rfl⟩
      | planeByte inside unwritten => exact .inr (.inl ⟨_, rfl, inside, unwritten, rfl⟩)
      | pixel fits inFrame unwritten => exact .inr (.inr ⟨_, _, rfl, fits, inFrame, unwritten, rfl⟩)
    · cases resets.symm.trans h

/-! ### The status of a response (60_exceptions.md R140, R142) -/

/-- The codes of R140's table, as numbers. -/
@[simp] theorem Status.code_toNat :
    Status.ok.code.toNat = 0 ∧ Status.illegalOpcode.code.toNat = 1 ∧ Status.reservedBits.code.toNat = 2 ∧
    Status.badSelector.code.toNat = 3 ∧ Status.badSubframeCount.code.toNat = 4 ∧
    Status.frameExceedsMemory.code.toNat = 5 ∧ Status.addrRange.code.toNat = 6 := by decide

@[simp] theorem Status.code_toNat_ite (check : Prop) [Decidable check] (a b : Status) :
    (if check then a else b).code.toNat = if check then a.code.toNat else b.code.toNat :=
  apply_ite (fun status : Status => status.code.toNat) check a b

/-- The status of a legal command: its own checks in the order of R142. -/
@[simp] def commandStatus (s : State) : Instr → Status
  | .nop => .ok
  | .blendAlpha _ _ => .ok
  | .blendAlphaBoth _ _ => .ok
  | .setCmap _ _ => .ok
  | .resetCmap => .ok
  | .setWidth _ => .ok
  | .setHeight _ => .ok
  | .readCfg sel => if 0x12 ≤ sel.toNat ∧ sel.toNat ≤ 0x1F ∨ 0x30 ≤ sel.toNat then .badSelector else .ok
  | .encode _ nsub => if nsub ≠ 4#4 then .badSubframeCount else if ¬ s.frameFits then .frameExceedsMemory else .ok
  | .frameWr addr _ => if 4096 ≤ addr.toNat then .addrRange else .ok
  | .frameRd addr => if 4096 ≤ addr.toNat then .addrRange else .ok
  | .planeWr addr _ => if 2048 ≤ addr.toNat then .addrRange else .ok
  | .planeRd addr => if 2048 ≤ addr.toNat then .addrRange else .ok

/-- The status of a command word: what decoding reports comes before its command's own checks. -/
def wordStatus (s : State) (w : Word) : Status :=
  match decode w with
  | .ok i => commandStatus s i
  | .error e => statusOfDecodeError e

/-- An outcome that goes on from `s` has answered once, with `status`; a fault answers nothing. -/
def AnswersWith (s : State) (status : Status) (outcome : Result) : Prop :=
  ∀ t, outcome = .next t → ∃ data, t.responses = s.responses ++ [responseWord status data]

section
variable {s : State}

theorem AnswersWith.of_finish {u : State} (kept : u.responses = s.responses) (data : BitVec 16) :
    AnswersWith s .ok (finish u data) := by
  intro t h
  rw [finish_next.mp h]
  exact ⟨data, by rw [State.respond_responses, kept]⟩

theorem AnswersWith.of_reject (code : Status) : AnswersWith s code (reject s code) := by
  intro t h
  rw [reject_next.mp h]
  exact ⟨0#16, rfl⟩

theorem AnswersWith.of_fault (status : Status) (f : Fault) : AnswersWith s status (.fault f) := nofun

/-- A check that decides how a command ends decides its status. -/
theorem AnswersWith.ite {check : Prop} [Decidable check] {status status' : Status} {a b : Result}
    (ha : check → AnswersWith s status a) (hb : ¬ check → AnswersWith s status' b) :
    AnswersWith s (if check then status else status') (if check then a else b) := by
  split
  · next holds => exact ha holds
  · next fails => exact hb fails

end

theorem cfgValue_eq_none_iff {c : Config} {sel : BitVec 8} {s : State} :
    cfgValue c sel s = none ↔ 0x12 ≤ sel.toNat ∧ sel.toNat ≤ 0x1F ∨ 0x30 ≤ sel.toNat := by
  refine ⟨fun unnamed => ?_, cfgValue_undefined c s⟩
  unfold cfgValue at unnamed
  split_ifs at unnamed
  omega

theorem readCfg_answersWith (sel : BitVec 8) (s : State) :
    AnswersWith s (commandStatus s (.readCfg sel)) (readCfg Config.block sel s) := by
  rw [commandStatus]
  rcases readCfg_cases Config.block sel s with ⟨v, named, answered⟩ | ⟨unnamed, rejected⟩
  · rw [answered, if_neg fun undefined => by cases named.symm.trans (cfgValue_undefined _ s undefined)]
    exact .of_finish rfl v
  · rw [rejected, if_pos (cfgValue_eq_none_iff.mp unnamed)]
    exact .of_reject _

theorem encodeFrame_answersWith (u : Bool) (nsub : BitVec 4) (s : State) :
    AnswersWith s (commandStatus s (.encode u nsub)) (encodeFrame Config.block u nsub s) := by
  refine .ite (fun _ => .of_reject _) fun _ => .ite (fun _ => .of_reject _) fun _ => ?_
  cases encodedPlane Config.block u s with
  | error f => exact .of_fault _ f
  | ok m => exact .of_finish rfl _

theorem frameRd_answersWith (addr : BitVec 20) (s : State) :
    AnswersWith s (commandStatus s (.frameRd addr)) (frameRd Config.block addr s) := by
  refine .ite (fun _ => .of_reject _) fun _ => ?_
  cases memReadFrame s.frame addr.toNat with
  | error f => exact .of_fault _ f
  | ok v => exact .of_finish rfl _

theorem planeRd_answersWith (addr : BitVec 20) (s : State) :
    AnswersWith s (commandStatus s (.planeRd addr)) (planeRd Config.block addr s) := by
  refine .ite (fun _ => .of_reject _) fun _ => ?_
  cases memReadPlane s.plane addr.toNat with
  | error f => exact .of_fault _ f
  | ok v => exact .of_finish rfl _

theorem exec_answersWith (i : Instr) (s : State) : AnswersWith s (commandStatus s i) (exec i s) := by
  cases i with
  | nop | blendAlpha | blendAlphaBoth | setCmap | resetCmap | setWidth | setHeight => exact .of_finish rfl _
  | readCfg sel => exact readCfg_answersWith sel s
  | encode u nsub => exact encodeFrame_answersWith u nsub s
  | frameWr addr data => exact .ite (fun _ => .of_reject _) fun _ => .of_finish rfl _
  | frameRd addr => exact frameRd_answersWith addr s
  | planeWr addr data => exact .ite (fun _ => .of_reject _) fun _ => .of_finish rfl _
  | planeRd addr => exact planeRd_answersWith addr s

theorem runWord_answersWith (w : Word) (s : State) : AnswersWith s (wordStatus s w) (runWord w s) := by
  rcases runWord_cases w s with ⟨i, decoded, runs⟩ | ⟨e, undecoded, rejected⟩
  · simpa only [wordStatus, decoded, runs] using exec_answersWith i s
  · simpa only [wordStatus, undecoded, rejected] using .of_reject _

theorem wordStatus_of_reserved_opc {w : Word} (reserved : 13 ≤ (opcField w).toNat) (s : State) :
    wordStatus s w = .illegalOpcode := by
  rw [wordStatus, decode_of_reserved_opc reserved]
  rfl

theorem wordStatus_of_opc {w : Word} {i : Instr} (opcode : opcField w = i.opc) (s : State) :
    wordStatus s w =
      if w.extractLsb' i.reservedPlace.1 i.reservedPlace.2 ≠ 0#i.reservedPlace.2 then .reservedBits
      else commandStatus s (i.withFields w) := by
  rw [wordStatus, decode_of_opc opcode, ite_not]
  simp only [← i.and_reserved_eq_zero_iff]
  by_cases clear : w &&& i.reserved = 0#32
  · simp only [if_pos clear]
  · simp only [if_neg clear]
    rfl

/-- Settles O14: a word of a reserved opcode has one cause; at any other opcode the rule's list comes down to the
reserved bits of the command's format and the command's own checks. -/
theorem statusReportsTheFirstCause : Obligations.StatusReportsTheFirstCause := by
  intro s t w r rest hs h answered opc sel addr n
  rw [step_of_command hs] at h
  obtain ⟨data, responds⟩ := runWord_answersWith w _ t h
  cases List.append_cancel_left (answered.symm.trans responds)
  rw [responseWord_status]
  rcases lt_or_ge (opcField w).toNat 13 with defined | reserved
  · obtain ⟨i, opcode⟩ := exists_opc_eq defined
    have opc_eq : opc = i.opc.toNat := congrArg BitVec.toNat opcode.symm
    rw [wordStatus_of_opc opcode.symm, Status.code_toNat_ite, opc_eq]
    cases i with
    | nop | blendAlpha | blendAlphaBoth | setCmap | resetCmap | setWidth | setHeight =>
      simp [Instr.opc, Instr.withFields]
    | readCfg =>
      have sel_eq : (selField w).toNat = sel := rfl
      simp [Instr.opc, Instr.withFields, sel_eq]
    | encode =>
      have nsub_eq : nsubField w = w.extractLsb' 0 4 := rfl
      have large : ¬ (s.withIncoming rest).frameFits ↔ 4096 < n ∨ 2048 < 4 * ((n + 7) / 8) := by
        rw [State.frameFits, not_and_or, not_le, not_le]
        rfl
      simp [Instr.opc, Instr.withFields, nsub_eq, large, -not_and]
    | frameWr | frameRd | planeWr | planeRd =>
      have addr_eq : (addrField w).toNat = addr := rfl
      simp [Instr.opc, Instr.withFields, addr_eq]
  · rw [wordStatus_of_reserved_opc reserved]
    exact (if_pos reserved).symm

end Sys2Proof.Machine
end

section
/-! The statements of 70_reset_and_hazards.md: what reset leaves (R160, R162), a reset between two commands (R160), and
the invariant at reset. -/

namespace Sys2Proof.Machine

@[simp] theorem State.readCmap_reset (i : BitVec 4) : State.reset.readCmap i = i :=
  State.readCmap_applyReset State.reset i

/-! ### The reset between commands (R160) -/

theorem step_of_reset {s : State} {rest : List HostInput} (sent : s.incoming = .reset :: rest) :
    step s = .next (s.withIncoming rest).applyReset := by
  rcases step_cases s with ⟨idle, -⟩ | ⟨w, rest', command, -⟩ | ⟨rest', reset, steps⟩
  · cases sent.symm.trans idle
  · cases sent.symm.trans command
  · cases sent.symm.trans reset
    exact steps

/-- Settles O17: the step applies the reset to the state whose port holds the inputs after it. -/
theorem resetBetweenCommands : Obligations.ResetBetweenCommands := by
  intro s rest sent
  exact ⟨_, step_of_reset sent, State.readCmap_applyReset _, rfl, rfl, Memory.read_nil, Memory.read_nil, rfl, rfl⟩

/-! ### The reset state (R160, R162) -/

theorem exec_readCfg_hwmap (code : BitVec 4) (s : State) :
    exec (.readCfg (0x2#4 ++ code)) s =
      .next { s with responses := s.responses ++ [(hwmap wiredBitOrder code).setWidth 32] } :=
  exec_readCfg_of_some (by decide) (cfgValue_hwmap Config.block s code)

/-- Settles O16: the registers and memories by their values, and both tables because the commands that read them answer
their entries in every state. -/
theorem resetLeavesTheSpecsValues : Obligations.ResetLeavesTheSpecsValues :=
  ⟨State.readCmap_reset, State.reset_width, State.reset_height, Memory.read_nil, Memory.read_nil,
    fun src dst => ⟨_, exec_blendAlphaBoth src dst State.reset, List.getLast?_concat⟩,
    fun code => ⟨_, exec_readCfg_hwmap code State.reset, List.getLast?_concat⟩⟩

/-- Settles O50: reset leaves both memories and the list of responses empty. -/
theorem resetMeetsTheInvariant : Obligations.ResetMeetsTheInvariant :=
  ⟨Memory.wf_nil, Memory.wf_nil, List.forall_mem_nil _, List.forall_mem_nil _, List.all_nil⟩

end Sys2Proof.Machine
end
